-- ==== Sys2Proof/Word.lean ====
section
/-! DEFINITION. The data shapes of the engine: bytes, bus words, blocks, the 4 x 4 working state and the
key schedule (spec 00 R9, R11, R12; 10 R38 to R43). -/

namespace Sys2Proof

/-- A byte is an 8-bit unsigned value (00 R12). -/
abbrev Byte := BitVec 8

/-- A 32-bit bus word (00 R10). -/
abbrev Word := BitVec 32

/-- A word of the key schedule: 4 bytes, the first at index 0 (00 R18; 10 R41). -/
abbrev KeyWord := Vector Byte 4

/-- 16 bytes, byte 0 first: a key, an input block or an output block (10 R38 to R40). -/
abbrev Block := Vector Byte 16

/-- The key-schedule store: words 0 to 43 (10 R41). -/
abbrev Schedule := Vector KeyWord 44

/-- A 4 x 4 byte matrix, indexed `[row][col]` (10 R43). -/
abbrev Matrix := Vector (Vector Byte 4) 4

/-- A word of four zero bytes. -/
def KeyWord.zero : KeyWord := Vector.replicate 4 0

/-- A block of sixteen zero bytes. -/
def Block.zero : Block := Vector.replicate 16 0

/-- A schedule of zero words. -/
def Schedule.zero : Schedule := Vector.replicate 44 KeyWord.zero

/-- A matrix of zero bytes. -/
def Matrix.zero : Matrix := Vector.replicate 4 (Vector.replicate 4 0)

end Sys2Proof
end

