-- ==== Sys2Proof/Syntax.lean ====
section
/-! DEFINITION. The engine's instructions: the command words written to CMD, one constructor per row of
spec/opcode_table.json (30 R100, R101, R104, R106). -/

namespace Sys2Proof

/-- A command. Each constructor keeps every field of the one command format (OP [2:0], RSV0 [7:3], LEN [15:8],
RSV1 [31:16]) that its row does not fix, ignored fields included, so that no bit of a word is lost (log 13). -/
inductive Instr where
  /-- NOP: OP = 0, bits [31:3] ignored (44 R221) -/
  | nop (rsv0 : BitVec 5) (len : BitVec 8) (rsv1 : BitVec 16)
  /-- a reserved OP, 4 to 7: illegal (44 R225) -/
  | illegalReservedOp (op : BitVec 3) (rsv0 : BitVec 5) (len : BitVec 8) (rsv1 : BitVec 16)
  /-- KEY_EXPAND: OP = 1 (44 R222) -/
  | keyExpand (len : BitVec 8)
  /-- ENCRYPT_BLOCK: OP = 2 (44 R223) -/
  | encryptBlock (len : BitVec 8)
  /-- DECRYPT_BLOCK: OP = 3 (44 R224) -/
  | decryptBlock (len : BitVec 8)
  /-- OP in 1..3 with a nonzero reserved bit: illegal (44 R225) -/
  | illegalReservedBits (op : BitVec 3) (rsv0 : BitVec 5) (len : BitVec 8) (rsv1 : BitVec 16)
  deriving DecidableEq, Repr

end Sys2Proof
end

