-- ==== Sys2Proof/WellFormed.lean ====
section
/-! DEFINITION. Which instructions are the reading of some command word (30 R104, R106). The field widths are in
the types; what is left are the checks of the two illegal rows. -/

namespace Sys2Proof

/-- A reserved OP has bit 2 set: OP in 4..7 (30 R106). -/
def isReservedOp (op : BitVec 3) : Bool := op.getLsbD 2

/-- OP in 1..3, an operation of 30 R101. -/
def isOperation (op : BitVec 3) : Bool := op == 1 || op == 2 || op == 3

/-- The fields are those of a word of the instruction's own row. -/
def Instr.wf : Instr → Bool
  | .nop _ _ _ => true
  | .illegalReservedOp op _ _ _ => isReservedOp op
  | .keyExpand _ => true
  | .encryptBlock _ => true
  | .decryptBlock _ => true
  | .illegalReservedBits op rsv0 _ rsv1 => isOperation op && (rsv0 != 0 || rsv1 != 0)

end Sys2Proof
end

