-- ==== Sys2Proof/Decode.lean ====
section
/-! DEFINITION. Decoding and encoding of command words (30 R100 to R107). The decoder is total on all 2^32
words; words without an operation are rejected by the names of the two illegal rows (30 R104). -/

namespace Sys2Proof

/-- OP, bits [2:0] (30 R100). -/
def fieldOp (v : Word) : BitVec 3 := v.extractLsb' 0 3
/-- RSV0, bits [7:3] (30 R100). -/
def fieldRsv0 (v : Word) : BitVec 5 := v.extractLsb' 3 5
/-- LEN, bits [15:8]: a byte count, no scaling, no sign (30 R100, R102). -/
def fieldLen (v : Word) : BitVec 8 := v.extractLsb' 8 8
/-- RSV1, bits [31:16] (30 R100). -/
def fieldRsv1 (v : Word) : BitVec 16 := v.extractLsb' 16 16

/-- The decoder of 30 R104, its checks in the order written there. -/
def decode (v : Word) : Instr :=
  if fieldOp v = 0 then .nop (fieldRsv0 v) (fieldLen v) (fieldRsv1 v)
  else if (fieldOp v).getLsbD 2 then .illegalReservedOp (fieldOp v) (fieldRsv0 v) (fieldLen v) (fieldRsv1 v)
  else if fieldRsv0 v ≠ 0 ∨ fieldRsv1 v ≠ 0 then
    .illegalReservedBits (fieldOp v) (fieldRsv0 v) (fieldLen v) (fieldRsv1 v)
  else if fieldOp v = 1 then .keyExpand (fieldLen v)
  else if fieldOp v = 2 then .encryptBlock (fieldLen v)
  else .decryptBlock (fieldLen v)

/-- The word with the four fields of 30 R100. -/
def packCommand (op : BitVec 3) (rsv0 : BitVec 5) (len : BitVec 8) (rsv1 : BitVec 16) : Word :=
  rsv1 ++ len ++ rsv0 ++ op

/-- The word of a well-formed instruction (30 R100, R101, R105). -/
def encode : Instr → Word
  | .nop rsv0 len rsv1 => packCommand 0 rsv0 len rsv1
  | .illegalReservedOp op rsv0 len rsv1 => packCommand op rsv0 len rsv1
  | .keyExpand len => packCommand 1 0 len 0
  | .encryptBlock len => packCommand 2 0 len 0
  | .decryptBlock len => packCommand 3 0 len 0
  | .illegalReservedBits op rsv0 len rsv1 => packCommand op rsv0 len rsv1

/-- The command word whose lowest `nbits` bits are those of `w` and whose other bits are 0. A command is one
32-bit write (30 R100), so the table's numbering of bits is the word's own. -/
def tableWord (nbits w : Nat) : Word := BitVec.ofNat 32 (w % 2 ^ nbits)

/-- The instruction read from a table word. A command has 32 bits and no other length (30 R100), so a longer
one is refused. -/
def decodeTableWord (nbits w : Nat) : Option Instr :=
  if nbits ≤ 32 then some (decode (tableWord nbits w)) else none

end Sys2Proof
end

