-- ==== Sys2Proof/Machine/GF.lean ====
section
/-! DEFINITION. The GF(2^8) multiplier (41 R150, R151). It holds no state (41 R155). -/

namespace Sys2Proof.Machine

/-- `aa` after one shift and conditional reduction by 0x11B, on 9 bits (41 R150). -/
def gmulShift (aa : BitVec 9) : BitVec 9 :=
  let sh := aa <<< 1
  if sh.getLsbD 8 then sh ^^^ 0x11B else sh

/-- The loop of 41 R150, with `n` iterations left. -/
def gmulLoop : Nat → Byte → BitVec 9 → Byte → Byte
  | 0, p, _, _ => p
  | n + 1, p, aa, bb =>
    gmulLoop n (if bb.getLsbD 0 then p ^^^ aa.setWidth 8 else p) (gmulShift aa) (bb >>> 1)

/-- `gmul(a, b)`, the product in GF(2^8) under 0x11B (41 R150). -/
def gmul (a b : Byte) : Byte := gmulLoop 8 0 (a.setWidth 9) b

/-- `xtime(a)`, one shift-and-reduce step on 8 bits (41 R151). -/
def xtime (a : Byte) : Byte := (a <<< 1) ^^^ (if a.getLsbD 7 then 0x1B else 0x00)

end Sys2Proof.Machine
end

