-- ==== Sys2Proof/Machine/KeySchedule.lean ====
section
/-! DEFINITION. The key-schedule expander (42 R170 to R176). -/

namespace Sys2Proof.Machine

/-- Byte `j` of a schedule word. -/
def wordByte (t : KeyWord) (j : Fin 4) : Byte := t[j]

/-- W[i]; the callers keep i in 0..43, and the default word is never used. -/
def schedWord (w : Schedule) (i : Nat) : KeyWord := w.getD i KeyWord.zero

/-- Bytewise XOR of two words (42 R172). -/
def xorWord (a b : KeyWord) : KeyWord := Vector.ofFn fun j => wordByte a j ^^^ wordByte b j

/-- RotWord: `[t0, t1, t2, t3]` becomes `[t1, t2, t3, t0]` (42 R173). -/
def rotWord (t : KeyWord) : KeyWord := #v[wordByte t 1, wordByte t 2, wordByte t 3, wordByte t 0]

/-- SubWord: the forward S-box on each byte (42 R174). -/
def subWord (t : KeyWord) : KeyWord := Vector.ofFn fun j => sbox (wordByte t j)

/-- The round-constant step: RCON[i/4 - 1] into byte 0 only (42 R175). -/
def addRcon (i : Nat) (t : KeyWord) : KeyWord :=
  #v[wordByte t 0 ^^^ rcon (i / 4 - 1), wordByte t 1, wordByte t 2, wordByte t 3]

/-- `temp` of 42 R172 for word `i`, from word i-1. -/
def scheduleTemp (i : Nat) (prev : KeyWord) : KeyWord :=
  if i % 4 = 0 then addRcon i (subWord (rotWord prev)) else prev

/-- Word `i` from word i-1 and word i-4, for i in 4..43 (42 R172). -/
def nextWord (w : Schedule) (i : Nat) : KeyWord :=
  xorWord (schedWord w (i - 4)) (scheduleTemp i (schedWord w (i - 1)))

/-- The schedule with word `i` computed (42 R172; 44 R228). -/
def expandWord (w : Schedule) (i : Nat) : Schedule := w.setIfInBounds i (nextWord w i)

/-- Word `i` of the key, for i in 0..3: bytes 4i to 4i+3 (42 R171). -/
def keyChunk (k : Block) (i : Nat) : KeyWord := Vector.ofFn fun (j : Fin 4) => k.getD (4 * i + j.val) 0

/-- Words 0 to 3 loaded from the key, the others kept (42 R171; 44 R222). -/
def loadKeyWords (w : Schedule) (k : Block) : Schedule :=
  Vector.ofFn fun (i : Fin 44) => if i.val < 4 then keyChunk k i.val else w[i]

/-- KeyExpansion(K): words 0 to 3 are the key, words 4 to 43 follow in increasing order (42 R176). -/
def keyExpansion (k : Block) : Schedule :=
  (List.range' 4 40).foldl expandWord (loadKeyWords Schedule.zero k)

end Sys2Proof.Machine
end

