-- ==== Sys2Proof/Machine/Rounds.lean ====
section
/-! DEFINITION. The round-transform pipeline on the 4 x 4 working state (43 R189 to R196). Row and column
arithmetic is modulo 4, as that of `Fin 4` is. -/

namespace Sys2Proof.Machine

/-- S[r][c] (10 R43). -/
def cell (m : Matrix) (r c : Fin 4) : Byte := (m[r])[c]

/-- The matrix whose cell at row r and column c is `f r c`. -/
def mkMatrix (f : Fin 4 → Fin 4 → Byte) : Matrix := Vector.ofFn fun r => Vector.ofFn fun c => f r c

/-- ToState: byte k of the block goes to row k mod 4, column k div 4 (43 R189; 20 R71). -/
def toState (b : Block) : Matrix := mkMatrix fun r c => b.getD (4 * c.val + r.val) 0

/-- ToBytes: byte k of the block is the cell at row k mod 4, column k div 4 (43 R189). -/
def toBytes (m : Matrix) : Block :=
  Vector.ofFn fun (k : Fin 16) => cell m (Fin.ofNat 4 (k.val % 4)) (Fin.ofNat 4 (k.val / 4))

/-- SubBytes (43 R190). -/
def subBytes (m : Matrix) : Matrix := mkMatrix fun r c => sbox (cell m r c)

/-- InvSubBytes (43 R191). -/
def invSubBytes (m : Matrix) : Matrix := mkMatrix fun r c => invSbox (cell m r c)

/-- ShiftRows: row r rotates left by r (43 R192). -/
def shiftRows (m : Matrix) : Matrix := mkMatrix fun r c => cell m r (c + r)

/-- InvShiftRows: row r rotates right by r (43 R193). -/
def invShiftRows (m : Matrix) : Matrix := mkMatrix fun r c => cell m r (c - r)

/-- One column of MixColumns (43 R194); coefficient 1 is the plain byte. -/
def mixColumn (a0 a1 a2 a3 : Byte) : Fin 4 → Byte
  | 0 => gmul 0x02 a0 ^^^ gmul 0x03 a1 ^^^ a2 ^^^ a3
  | 1 => a0 ^^^ gmul 0x02 a1 ^^^ gmul 0x03 a2 ^^^ a3
  | 2 => a0 ^^^ a1 ^^^ gmul 0x02 a2 ^^^ gmul 0x03 a3
  | 3 => gmul 0x03 a0 ^^^ a1 ^^^ a2 ^^^ gmul 0x02 a3

/-- One column of InvMixColumns (43 R195). -/
def invMixColumn (a0 a1 a2 a3 : Byte) : Fin 4 → Byte
  | 0 => gmul 0x0e a0 ^^^ gmul 0x0b a1 ^^^ gmul 0x0d a2 ^^^ gmul 0x09 a3
  | 1 => gmul 0x09 a0 ^^^ gmul 0x0e a1 ^^^ gmul 0x0b a2 ^^^ gmul 0x0d a3
  | 2 => gmul 0x0d a0 ^^^ gmul 0x09 a1 ^^^ gmul 0x0e a2 ^^^ gmul 0x0b a3
  | 3 => gmul 0x0b a0 ^^^ gmul 0x0d a1 ^^^ gmul 0x09 a2 ^^^ gmul 0x0e a3

/-- MixColumns (43 R194). -/
def mixColumns (m : Matrix) : Matrix :=
  mkMatrix fun r c => mixColumn (cell m 0 c) (cell m 1 c) (cell m 2 c) (cell m 3 c) r

/-- InvMixColumns (43 R195). -/
def invMixColumns (m : Matrix) : Matrix :=
  mkMatrix fun r c => invMixColumn (cell m 0 c) (cell m 1 c) (cell m 2 c) (cell m 3 c) r

/-- Round key r as a matrix, r in 0..10: column c is word 4r + c (10 R42). -/
def roundKey (w : Schedule) (r : Nat) : Matrix :=
  mkMatrix fun row col => wordByte (schedWord w (4 * r + col.val)) row

/-- AddRoundKey(S, r) (43 R196). -/
def addRoundKey (w : Schedule) (m : Matrix) (r : Nat) : Matrix :=
  mkMatrix fun row col => cell m row col ^^^ cell (roundKey w r) row col

end Sys2Proof.Machine
end

