-- ==== Sys2Proof/Machine/Cipher.lean ====
section
/-! DEFINITION. The two cipher functions and the rounds they share with the sequencer (44 R226, R227, R228). -/

namespace Sys2Proof.Machine

/-- A full encryption round with round key r, r in 1..9 (44 R226 step 3). -/
def encRound (w : Schedule) (m : Matrix) (r : Nat) : Matrix :=
  addRoundKey w (mixColumns (shiftRows (subBytes m))) r

/-- The final encryption round, round key 10 and no column mixing (44 R226 step 4). -/
def encFinal (w : Schedule) (m : Matrix) : Matrix := addRoundKey w (shiftRows (subBytes m)) 10

/-- A full decryption round with round key r, r in 9 down to 1 (44 R227). -/
def decRound (w : Schedule) (m : Matrix) (r : Nat) : Matrix :=
  invMixColumns (addRoundKey w (invSubBytes (invShiftRows m)) r)

/-- The final decryption round, round key 0 (44 R227). -/
def decFinal (w : Schedule) (m : Matrix) : Matrix := addRoundKey w (invSubBytes (invShiftRows m)) 0

/-- Steps 1 and 2 of 44 R226: what ENCRYPT_BLOCK's issue loads into S (44 R223). -/
def encStart (w : Schedule) (b : Block) : Matrix := addRoundKey w (toState b) 0

/-- Steps 1 and 2 of 44 R227: what DECRYPT_BLOCK's issue loads into S (44 R224). -/
def decStart (w : Schedule) (b : Block) : Matrix := addRoundKey w (toState b) 10

/-- Cipher(B, W) (44 R226). -/
def cipher (b : Block) (w : Schedule) : Block :=
  toBytes (encFinal w ([1, 2, 3, 4, 5, 6, 7, 8, 9].foldl (encRound w) (encStart w b)))

/-- InvCipher(B, W) (44 R227). -/
def invCipher (b : Block) (w : Schedule) : Block :=
  toBytes (decFinal w ([9, 8, 7, 6, 5, 4, 3, 2, 1].foldl (decRound w) (decStart w b)))

end Sys2Proof.Machine
end

