-- ==== Sys2Proof/Config.lean ====
section
/-! DEFINITION. The configuration: the fixed parameters of 00 R9 and the OPEN platform parameters of 00 R10,
which a model takes as parameters (10 R48; 93 items 1 and 2; log 3). -/

namespace Sys2Proof

/-- The one accepted length in bytes of a key or a block (00 R9; 30 R102). -/
abbrev Config.acceptedLen : Nat := 16

/-- The index of the last key-schedule word (00 R9). -/
abbrev Config.lastWord : Nat := 43

/-- The number of rounds (00 R9). -/
abbrev Config.rounds : Nat := 10

/-- The size in bytes of the register window (00 R10). -/
abbrev Config.windowBytes : Nat := 64

/-- The platform's parameters. They are OPEN (00 R10): State carries them, no step changes them, and a claim
about every state holds for every value of them. The latencies are data of the platform that no step reads
beyond the check `ok`, since the model has no time (70 R330; log 16). -/
structure Params where
  /-- `AES_BASE`, the address of the window's first byte -/
  aesBase : Nat
  /-- `BUS_AW`, the width in bits of a bus address -/
  busAw   : Nat
  /-- `LAT_KEY` -/
  latKey  : Nat
  /-- `LAT_ENC` -/
  latEnc  : Nat
  /-- `LAT_DEC` -/
  latDec  : Nat
  deriving DecidableEq, Repr

/-- A configuration a model may run: the window at a multiple of 0x40 and inside `BUS_AW` bits (93 item 2), and
every latency at least 1 (70 R330). -/
def Params.ok (p : Params) : Bool :=
  p.aesBase % Config.windowBytes == 0 && decide (p.aesBase + Config.windowBytes ≤ 2 ^ p.busAw)
    && decide (1 ≤ p.latKey) && decide (1 ≤ p.latEnc) && decide (1 ≤ p.latDec)

end Sys2Proof
end

