-- ==== Sys2Proof/Machine/HostSyntax.lean ====
section
/-! DEFINITION. What the engine's surroundings can do: bus accesses, the host's assembly (30 R108, R109) and the
turns that make up the one total order of host accesses and engine steps (20 R82; log 1). -/

namespace Sys2Proof.Machine

/-- A bus access by the host at a byte address, of a width in bytes, conforming or not (00 R14; 20 R73, R74). The
address is not held to `BUS_AW` bits, and a write wider or narrower than a word carries a word all the same, which
nothing reads (DESIGN CHOICE, safe: log 20). -/
inductive BusAccess where
  | read  (addr size : Nat)
  | write (addr size : Nat) (value : Word)
  deriving DecidableEq, Repr

/-- A host instruction (30 R108). Offsets are from `AES_BASE`; a branch names the index of the instruction its
label stands before. -/
inductive HostInstr where
  /-- `wr OFF, IMM32` -/
  | wrImm (off : Nat) (imm : Word)
  /-- `wr OFF, tN` -/
  | wrReg (off : Nat) (n : Fin 8)
  /-- `rd tN, OFF` -/
  | rd (n : Fin 8) (off : Nat)
  /-- `andi tN, tM, IMM32` -/
  | andi (n m : Fin 8) (imm : Word)
  /-- `bnez tN, LABEL` -/
  | bnez (n : Fin 8) (target : Nat)
  /-- `beqz tN, LABEL` -/
  | beqz (n : Fin 8) (target : Nat)
  /-- `halt` -/
  | halt
  deriving DecidableEq, Repr

/-- A label: the program's own, or the fresh one of the `wait` that line `n` of the program expands to
(30 R109: "Lw a fresh label, distinct from every other label of the program"; log 18). -/
inductive Label where
  | named (n : Nat)
  | ofWait (line : Nat)
  deriving DecidableEq, Repr

/-- A line of a host program: an instruction with its branch target still a label, or a label's definition. -/
inductive HostLine where
  | wrImm (off : Nat) (imm : Word)
  | wrReg (off : Nat) (n : Fin 8)
  | rd (n : Fin 8) (off : Nat)
  | andi (n m : Fin 8) (imm : Word)
  | bnez (n : Fin 8) (l : Label)
  | beqz (n : Fin 8) (l : Label)
  | halt
  | label (l : Label)
  deriving DecidableEq, Repr

/-- A source line: a plain line, or a command mnemonic or pseudo-instruction of 30 R109. An operand `len` is held to
the 8 bits of the LEN field; what an assembler does with a larger one the spec does not say (DESIGN CHOICE, safe:
log 21). -/
inductive HostSource where
  | plain (l : HostLine)
  | nop
  | keyExpand (len : BitVec 8)
  | encryptBlock (len : BitVec 8)
  | decryptBlock (len : BitVec 8)
  | ldkey (k : Block)
  | lddin (b : Block)
  | rddout
  | wait
  | construct (k : Block)
  | encryptOne (b : Block)
  | decryptOne (b : Block)
  deriving DecidableEq, Repr

/-- The host agent: its scratch registers t0 to t7, its program, its place in it, and whether `halt` has ended it
(30 R108). It belongs to the host, not the engine: an engine reset leaves it alone. -/
structure HostAgent where
  t      : Vector Word 8
  prog   : List HostInstr
  pc     : Nat
  halted : Bool
  deriving DecidableEq, Repr

/-- What happens next in the total order of 20 R82. -/
inductive Turn where
  /-- a sequencer step falls here (44 R228) -/
  | engine
  /-- the host executes its program's next instruction (30 R108) -/
  | host
  /-- the host makes any bus access at all (20 R73, R74) -/
  | access (a : BusAccess)
  /-- the reset input is asserted (70 R311) -/
  | assertReset
  /-- the reset input is released (70 R311) -/
  | releaseReset
  deriving DecidableEq, Repr

/-- The two block calls of the source's Block API (44 R233). -/
inductive BlockOp where
  | encrypt
  | decrypt
  deriving DecidableEq, Repr

/-- An error the host's caller can get (45 R265): a command the engine rejected, with its ERR code (1 is
InvalidKeyLength, 2 InvalidBlockLength), or one of the message layer's own two, which are never engine codes
(45 R260). -/
inductive HostError where
  | command (code : BitVec 4)
  | invalidInputLength
  | invalidPadding
  deriving DecidableEq, Repr

end Sys2Proof.Machine
end

