-- ==== Sys2Proof/Machine/State.lean ====
section
/-! DEFINITION. The machine's state as plain data, its reset value (10 R30 to R50; 70 R310), and the reasons a
step can stop. -/

namespace Sys2Proof.Machine

/-- The sequencer's states (10 R44). -/
inductive Seq where
  | idle
  | keyexp
  | enc
  | dec
  deriving DecidableEq, Repr

/-- The named errors a command's issue can report in STATUS.ERR (60 R280). They are next states, not faults. -/
inductive CmdError where
  | invalidKeyLength
  | invalidBlockLength
  | noKey
  | illegalCmd
  deriving DecidableEq, Repr

/-- The registers of the window, by what an offset selects (10 R30; 20 R80). -/
inductive WindowReg where
  | cmd
  | status
  | reserved
  | key (j : Fin 4)
  | din (j : Fin 4)
  | dout (j : Fin 4)
  deriving DecidableEq, Repr

/-- Where an access lands (20 R73, R74). -/
inductive WindowHit where
  /-- no byte of it is in the window -/
  | outside
  /-- a non-conforming access to the window, at this offset -/
  | nonConforming (off : BitVec 6)
  /-- a conforming access to the register at this offset -/
  | register (off : BitVec 6)
  deriving DecidableEq, Repr

/-- The whole state of one engine and its one host (log 15): the engine's (10 R32 to R45), its reset input (70 R311), the host's (30 R108), the platform's
parameters (00 R10), and the model's own `schedule` (log 1) and `readData` (log 5). STATUS.BUSY has no field: it
always equals SEQ != IDLE (10 R33). -/
structure State where
  /-- STATUS.DONE (10 R34) -/
  done     : Bool
  /-- STATUS.KEY_VALID (10 R35) -/
  keyValid : Bool
  /-- STATUS.DROP (10 R36) -/
  drop     : Bool
  /-- STATUS.ERR (10 R37) -/
  err      : BitVec 4
  /-- KEY[0..15] (10 R38) -/
  key      : Block
  /-- DIN[0..15] (10 R39) -/
  din      : Block
  /-- DOUT[0..15] (10 R40) -/
  dout     : Block
  /-- W[0..43], the key-schedule store (10 R41) -/
  w        : Schedule
  /-- S, the working state (10 R43) -/
  s        : Matrix
  /-- SEQ (10 R44) -/
  seq      : Seq
  /-- RND (10 R45) -/
  rnd      : BitVec 6
  /-- the reset input is asserted (70 R311) -/
  resetIn  : Bool
  /-- the host agent (30 R108) -/
  host     : HostAgent
  /-- the platform's parameters (00 R10; log 3) -/
  params   : Params
  /-- the model's own: the turns still to come, in order (20 R82; log 1) -/
  schedule : List Turn
  /-- the model's own: what the last scheduled read returned (00 R14; log 5) -/
  readData : Word
  deriving DecidableEq, Repr

/-- Why a run stops with an error. -/
inductive Fault where
  /-- Raised by a non-conforming access to the window: the bus error response, which a model treats as a fault of
  the run (20 R74; 93 item 6; log 6). Safe: the engine has changed no state and no claim covers the run past it. -/
  | busError (off : BitVec 6) (size : Nat)
  /-- Raised by an access to the window while reset is asserted (70 R311; 93 item 7). Safe: unspecified there. -/
  | accessDuringReset
  /-- Raised by the sequencer when RND is outside the range 44 R228 gives it for SEQ. No reachable state meets it.
  Safe: the spec gives no step there (log 9). -/
  | sequencerOutOfRange
  deriving DecidableEq, Repr

/-- Why a step is refused. -/
inductive Refusal where
  /-- Answered by `exec` for an instruction that has no meaning yet. Safe. -/
  | notModelled (mnemonic : String)
  /-- Answered by `step` for a configuration that the spec says a model must refuse (93 item 2). Safe. -/
  | badConfiguration
  /-- Answered for an access with no byte in the window: it does not belong to the engine, and what it reaches is
  the platform's affair (20 R73; 93 item 11; log 7). An access of width 0 counts as one (log 19). Safe. -/
  | outsideWindow
  deriving DecidableEq, Repr

/-- The result of a read: the data, or why there is none. -/
inductive ReadResult where
  | data (v : Word)
  | fault (r : Fault)
  | refused (r : Refusal)
  deriving DecidableEq, Repr

/-- The host as the model starts it: no program, and the scratch registers, which the spec leaves unwritten, at
zero (DESIGN CHOICE, unsafe: log 4). -/
def resetHost : HostAgent :=
  { t := Vector.replicate 8 0, prog := [], pc := 0, halted := false }

/-- The configuration the model's reset state carries; the spec leaves it OPEN (DESIGN CHOICE, unsafe: log 3). -/
def resetParams : Params :=
  { aesBase := 0, busAw := 32, latKey := 1, latEnc := 1, latDec := 1 }

/-- The machine right after reset: every item of 70 R310 at its reset value, reset released. -/
def State.reset : State :=
  { done := false, keyValid := false, drop := false, err := 0
    key := Block.zero, din := Block.zero, dout := Block.zero
    w := Schedule.zero, s := Matrix.zero, seq := .idle, rnd := 0
    resetIn := false, host := resetHost, params := resetParams
    schedule := [], readData := 0 }

end Sys2Proof.Machine
end

