-- ==== Sys2Proof/Machine/Flags.lean ====
section
/-! DEFINITION. STATUS: its fields, its word, and every way a field is set or cleared (10 R32 to R37; 20 R84;
44 R220, R229; 60 R280). -/

namespace Sys2Proof.Machine

/-- STATUS.BUSY always equals SEQ != IDLE (10 R33). -/
def State.busy (st : State) : Bool := st.seq != .idle

/-- The ERR code of a named error (60 R280). -/
def CmdError.code : CmdError → BitVec 4
  | .invalidKeyLength => 1
  | .invalidBlockLength => 2
  | .noKey => 3
  | .illegalCmd => 4

/-- STATUS as a word: ERR in bits [11:8], DROP, KEY_VALID, DONE, BUSY in bits 3 to 0, the reserved bits 0
(10 R32; 20 R75). -/
def State.statusWord (st : State) : Word :=
  (0 : BitVec 20) ++ st.err ++ (0 : BitVec 4) ++ BitVec.ofBool st.drop ++ BitVec.ofBool st.keyValid
    ++ BitVec.ofBool st.done ++ BitVec.ofBool st.busy

/-- The issue of a non-NOP command clears DONE, DROP and ERR (44 R220). -/
def State.clearStatus (st : State) : State := { st with done := false, drop := false, err := 0 }

/-- DROP is set when a write is ignored because BUSY is 1 (20 R84). -/
def State.setDrop (st : State) : State := { st with drop := true }

/-- Completion sets DONE and returns SEQ to IDLE (44 R229). -/
def State.setDone (st : State) : State := { st with done := true, seq := .idle }

end Sys2Proof.Machine
end

