-- ==== Sys2Proof/Machine/Operands.lean ====
section
/-! DEFINITION. Operand forms: the byte lanes of a word register, the register an offset selects, where an access
lands, and the LEN operand (10 R38 to R40; 20 R70, R73, R74; 30 R102). -/

namespace Sys2Proof.Machine

/-- The 32-bit value of word register j of a 16-byte array: byte 4j in bits [31:24] (20 R70). -/
def laneWord (b : Block) (j : Fin 4) : Word :=
  b.getD (4 * j.val) 0 ++ b.getD (4 * j.val + 1) 0 ++ b.getD (4 * j.val + 2) 0 ++ b.getD (4 * j.val + 3) 0

/-- Byte i of a word register's value: byte 0 is bits [31:24], byte 3 is bits [7:0] (20 R70). -/
def laneByte (v : Word) (i : Nat) : Byte := v.extractLsb' (8 * (3 - i)) 8

/-- The array after a write of v to its word register j (10 R38, R39; 20 R76). -/
def setLane (b : Block) (j : Fin 4) (v : Word) : Block :=
  Vector.ofFn fun (k : Fin 16) => if k.val / 4 = j.val then laneByte v (k.val % 4) else b[k]

/-- The register at an aligned offset of the window (10 R30; 20 R80). -/
def windowReg (off : BitVec 6) : WindowReg :=
  let n := off.toNat / 4
  if n = 0 then .cmd
  else if n = 1 then .status
  else if n < 4 then .reserved
  else if n < 8 then .key (Fin.ofNat 4 n)
  else if n < 12 then .din (Fin.ofNat 4 n)
  else .dout (Fin.ofNat 4 n)

/-- The offset the engine decodes, `(a - AES_BASE)[5:0]` (20 R73). -/
def windowOffset (base addr : Nat) : BitVec 6 := BitVec.ofNat 6 addr - BitVec.ofNat 6 base

/-- An access conforms when it is 4 bytes wide, in `AES_BASE .. AES_BASE + 0x3C`, and aligned (20 R73). -/
def conforming (base addr size : Nat) : Bool :=
  size == 4 && decide (base ≤ addr) && decide (addr ≤ base + 0x3C) && (addr - base) % 4 == 0

/-- Some byte of the access is in the window (20 R73, R74; log 7). That an access of width 0, of which the spec does
not speak, has no byte in it at any address is the model's choice (DESIGN CHOICE, safe: log 19), and so is that addresses are unbounded and none of its bytes wraps
at the top of the address space (DESIGN CHOICE, safe: log 20). -/
def touchesWindow (base addr size : Nat) : Bool :=
  decide (0 < size) && decide (addr < base + Config.windowBytes) && decide (base < addr + size)

/-- Where an access lands (20 R73, R74). -/
def windowHit (p : Params) (addr size : Nat) : WindowHit :=
  if conforming p.aesBase addr size then .register (windowOffset p.aesBase addr)
  else if touchesWindow p.aesBase addr size then .nonConforming (windowOffset p.aesBase addr)
  else .outside

/-- LEN is the byte count the host presents; 16 is the only one accepted (30 R102). -/
def lenAccepted (len : BitVec 8) : Bool := len.toNat == Config.acceptedLen

end Sys2Proof.Machine
end

