-- ==== Sys2Proof/Machine/Ops.lean ====
section
/-! DEFINITION. The shared operations: the gate every command word passes (20 R76, R84), the error report
(60 R282), the three starts (44 R222 to R224), the sequencer step and completion (44 R228, R229), reset (70 R310
to R312) and register reads (20 R75). -/

namespace Sys2Proof.Machine

/-- What any step answers. -/
abbrev Result := Host.Outcome State Fault Refusal

/-- A write to CMD, KEYj or DINj: while BUSY is 1 it is ignored and sets DROP, otherwise it has its effect
(20 R76, R84). -/
def whileIdle (effect : State → State) (st : State) : Result :=
  .next (if st.busy then st.setDrop else effect st)

/-- `report CmdError(code)`, the whole effect of a rejected issue: DONE and DROP become 0, ERR the code, nothing
else changes (60 R282). This is the engine's form of taking an exception. There is no return from it: ERR stays
until the next non-NOP issue or reset (60 R286). -/
def reportCmdError (e : CmdError) (st : State) : State := { st.clearStatus with err := e.code }

/-- `start_keyexp()` after the clearing of 44 R220: W[0..3] from KEY, KEY_VALID 0, RND 4, SEQ KEYEXP (44 R222). -/
def startKeyExp (st : State) : State :=
  { st.clearStatus with w := loadKeyWords st.w st.key, keyValid := false, rnd := 4, seq := .keyexp }

/-- `start_enc()` after the clearing of 44 R220 (44 R223). -/
def startEnc (st : State) : State :=
  { st.clearStatus with s := encStart st.w st.din, rnd := 1, seq := .enc }

/-- `start_dec()` after the clearing of 44 R220 (44 R224). -/
def startDec (st : State) : State :=
  { st.clearStatus with s := decStart st.w st.din, rnd := 9, seq := .dec }

/-- The issue of KEY_EXPAND: the length check, then the start (44 R220, R222; 60 R283). -/
def issueKeyExpand (len : BitVec 8) (st : State) : State :=
  if lenAccepted len then startKeyExp st else reportCmdError .invalidKeyLength st

/-- The issue of a block command: KEY_VALID first, then the length, then its start (44 R220; 60 R283). -/
def issueBlock (start : State → State) (len : BitVec 8) (st : State) : State :=
  if st.keyValid = false then reportCmdError .noKey st
  else if lenAccepted len then start st
  else reportCmdError .invalidBlockLength st

/-- `complete_keyexp()` (44 R229). RND keeps its last value (log 10). -/
def completeKeyExp (st : State) : State := { st.setDone with keyValid := true }

/-- `complete_block()`: DOUT takes all 16 bytes of the S just computed (44 R229; log 11). -/
def completeBlock (st : State) : State := { st.setDone with dout := toBytes st.s }

/-- The KEYEXP step: word RND in 4..43 (44 R228). -/
def stepKeyExp (st : State) : Result :=
  let i := st.rnd.toNat
  let st' := { st with w := expandWord st.w i }
  if i < 4 ∨ Config.lastWord < i then .fault .sequencerOutOfRange
  else if i = Config.lastWord then .next (completeKeyExp st')
  else .next { st' with rnd := st.rnd + 1 }

/-- The ENC step: round RND in 1..10 (44 R228). -/
def stepEnc (st : State) : Result :=
  let r := st.rnd.toNat
  if r < 1 ∨ Config.rounds < r then .fault .sequencerOutOfRange
  else if r = Config.rounds then .next (completeBlock { st with s := encFinal st.w st.s })
  else .next { st with s := encRound st.w st.s r, rnd := st.rnd + 1 }

/-- The DEC step: round key RND in 9 down to 0 (44 R228). -/
def stepDec (st : State) : Result :=
  let r := st.rnd.toNat
  if Config.rounds ≤ r then .fault .sequencerOutOfRange
  else if r = 0 then .next (completeBlock { st with s := decFinal st.w st.s })
  else .next { st with s := decRound st.w st.s r, rnd := st.rnd - 1 }

/-- `engine_step()`: one unit of work, enabled exactly when SEQ != IDLE; when it is not enabled nothing changes
(44 R228). -/
def engineStep (st : State) : Result :=
  match st.seq with
  | .idle => .next st
  | .keyexp => stepKeyExp st
  | .enc => stepEnc st
  | .dec => stepDec st

/-- An engine turn: reset takes precedence over any sequencer step (70 R312). -/
def engineTurn (st : State) : Result := if st.resetIn then .next st else engineStep st

/-- Every item of 70 R310 at its reset value; the host, the parameters, the schedule and the reset input itself
are no such items. -/
def resetEngine (st : State) : State :=
  { st with
    done := false, keyValid := false, drop := false, err := 0
    key := Block.zero, din := Block.zero, dout := Block.zero
    w := Schedule.zero, s := Matrix.zero, seq := .idle, rnd := 0 }

/-- Reset is asserted: one atomic step to the state of 70 R310, aborting a running command (70 R311, R312;
93 item 10; log 8). -/
def assertReset (st : State) : State := { resetEngine st with resetIn := true }

/-- Reset is released: the engine serves accesses at once (70 R311). -/
def releaseReset (st : State) : State := { st with resetIn := false }

/-- What a conforming read of the register at an offset returns (20 R75). -/
def readRegister (st : State) (off : BitVec 6) : Word :=
  match windowReg off with
  | .cmd => 0
  | .status => st.statusWord
  | .reserved => 0
  | .key _ => 0
  | .din j => laneWord st.din j
  | .dout j => laneWord st.dout j

/-- `MemRead`: the data of a conforming read, or why there is none (20 R73 to R75; 70 R311). -/
def memRead (st : State) (addr size : Nat) : ReadResult :=
  match windowHit st.params addr size with
  | .outside => .refused .outsideWindow
  | .nonConforming off => .fault (if st.resetIn then .accessDuringReset else .busError off size)
  | .register off => if st.resetIn then .fault .accessDuringReset else .data (readRegister st off)

end Sys2Proof.Machine
end

