-- ==== Sys2Proof/Machine/Commands.lean ====
section
/-! DEFINITION. The meaning of every command word: what a conforming write of it to CMD does (20 R76; 44 R220 to
R225). The BUSY gate of 20 R84 is part of each meaning (log 12). -/

namespace Sys2Proof.Machine

/-- NOP: while idle no state changes, not even DONE, DROP or ERR; the ignored bits play no part (44 R221). -/
def execNop (_rsv0 : BitVec 5) (_len : BitVec 8) (_rsv1 : BitVec 16) (st : State) : Result :=
  whileIdle (fun x => x) st

/-- A reserved OP reports ILLEGAL_CMD; its other bits are not looked at (44 R225; 30 R106). -/
def execIllegalReservedOp (_op : BitVec 3) (_rsv0 : BitVec 5) (_len : BitVec 8) (_rsv1 : BitVec 16)
    (st : State) : Result :=
  whileIdle (reportCmdError .illegalCmd) st

/-- KEY_EXPAND (44 R222). -/
def execKeyExpand (len : BitVec 8) (st : State) : Result := whileIdle (issueKeyExpand len) st

/-- ENCRYPT_BLOCK (44 R223). -/
def execEncryptBlock (len : BitVec 8) (st : State) : Result := whileIdle (issueBlock startEnc len) st

/-- DECRYPT_BLOCK (44 R224). -/
def execDecryptBlock (len : BitVec 8) (st : State) : Result := whileIdle (issueBlock startDec len) st

/-- OP in 1..3 with a nonzero reserved bit reports ILLEGAL_CMD and does nothing else (44 R225; 30 R103). -/
def execIllegalReservedBits (_op : BitVec 3) (_rsv0 : BitVec 5) (_len : BitVec 8) (_rsv1 : BitVec 16)
    (st : State) : Result :=
  whileIdle (reportCmdError .illegalCmd) st

end Sys2Proof.Machine
end

