-- ==== Sys2Proof/Machine/Dispatch.lean ====
section
/-! DEFINITION. One arm per command: the engine's response to a command word written to CMD (44 R220). -/

namespace Sys2Proof.Machine

def exec (i : Instr) (s : State) : Host.Outcome State Fault Refusal :=
  match i with
  | .nop rsv0 len rsv1 => Sys2Proof.Machine.execNop rsv0 len rsv1 s
  | .illegalReservedOp op rsv0 len rsv1 => Sys2Proof.Machine.execIllegalReservedOp op rsv0 len rsv1 s
  | .keyExpand len => Sys2Proof.Machine.execKeyExpand len s
  | .encryptBlock len => Sys2Proof.Machine.execEncryptBlock len s
  | .decryptBlock len => Sys2Proof.Machine.execDecryptBlock len s
  | .illegalReservedBits op rsv0 len rsv1 => Sys2Proof.Machine.execIllegalReservedBits op rsv0 len rsv1 s

end Sys2Proof.Machine
end

