-- ==== Sys2Proof/Machine/Bus.lean ====
section
/-! DEFINITION. Host accesses to the window: what a write does, and a scheduled access (20 R73 to R76, R82, R84). -/

namespace Sys2Proof.Machine

/-- What a conforming write of v to the register at an offset does (20 R76). A write to CMD issues the command
that v encodes (10 R31). -/
def writeRegister (off : BitVec 6) (v : Word) (st : State) : Result :=
  match windowReg off with
  | .cmd => exec (decode v) st
  | .status => .next st
  | .reserved => .next st
  | .key j => whileIdle (fun x => { x with key := setLane x.key j v }) st
  | .din j => whileIdle (fun x => { x with din := setLane x.din j v }) st
  | .dout _ => .next st

/-- `MemWrite`: a conforming write, or the fault of one that is not (20 R73, R74, R76; 70 R311). -/
def memWrite (addr size : Nat) (v : Word) (st : State) : Result :=
  match windowHit st.params addr size with
  | .outside => .refused .outsideWindow
  | .nonConforming off => .fault (if st.resetIn then .accessDuringReset else .busError off size)
  | .register off => if st.resetIn then .fault .accessDuringReset else writeRegister off v st

/-- A scheduled host access. A read changes no state of the engine (20 R75); its data is kept in `readData`
(log 5). -/
def access (a : BusAccess) (st : State) : Result :=
  match a with
  | .write addr size v => memWrite addr size v st
  | .read addr size =>
    match memRead st addr size with
    | .data v => .next { st with readData := v }
    | .fault r => .fault r
    | .refused r => .refused r

end Sys2Proof.Machine
end

