-- ==== Sys2Proof/Machine/HostRun.lean ====
section
/-! DEFINITION. The host agent: its instructions (30 R108) and the turns of the one total order of host accesses
and engine steps (20 R82; log 1). -/

namespace Sys2Proof.Machine

/-- The value of tN. -/
def hostReg (h : HostAgent) (n : Fin 8) : Word := h.t[n]

/-- tN written. -/
def setHostReg (h : HostAgent) (n : Fin 8) (v : Word) : HostAgent :=
  { h with t := Vector.ofFn fun k => if k = n then v else h.t[k] }

/-- The host moves on to its next instruction. -/
def hostAdvance (st : State) : State := { st with host := { st.host with pc := st.host.pc + 1 } }

/-- The host continues at `target` if the condition holds, else at its next instruction (30 R108). -/
def hostBranch (taken : Bool) (target : Nat) (st : State) : State :=
  { st with host := { st.host with pc := if taken then target else st.host.pc + 1 } }

/-- A host write, `MemWrite(AES_BASE + OFF, 4, v)`, then the next instruction (30 R108). -/
def hostWrite (off : Nat) (v : Word) (st : State) : Result :=
  memWrite (st.params.aesBase + off) 4 v (hostAdvance st)

/-- A host read, `tN <- MemRead(AES_BASE + OFF, 4)`, then the next instruction (30 R108). -/
def hostRead (n : Fin 8) (off : Nat) (st : State) : Result :=
  match memRead st (st.params.aesBase + off) 4 with
  | .data v => .next { hostAdvance st with host := setHostReg (hostAdvance st).host n v }
  | .fault r => .fault r
  | .refused r => .refused r

/-- One host instruction (30 R108). `halt` ends the program. -/
def hostExec (i : HostInstr) (st : State) : Result :=
  match i with
  | .wrImm off imm => hostWrite off imm st
  | .wrReg off n => hostWrite off (hostReg st.host n) st
  | .rd n off => hostRead n off st
  | .andi n m imm =>
    .next { hostAdvance st with host := setHostReg (hostAdvance st).host n (hostReg st.host m &&& imm) }
  | .bnez n target => .next (hostBranch (hostReg st.host n != 0) target st)
  | .beqz n target => .next (hostBranch (hostReg st.host n == 0) target st)
  | .halt => .next { st with host := { st.host with halted := true } }

/-- The host's turn: the instruction at its place in the program. A host whose program has ended, or has no
instruction there, does nothing (log 14). -/
def hostTurn (st : State) : Result :=
  if st.host.halted then .next st
  else match st.host.prog[st.host.pc]? with
    | none => .next st
    | some i => hostExec i st

/-- One turn of the total order (20 R82; 70 R311, R312). -/
def runTurn (t : Turn) (st : State) : Result :=
  match t with
  | .engine => engineTurn st
  | .host => hostTurn st
  | .access a => access a st
  | .assertReset => .next (assertReset st)
  | .releaseReset => .next (releaseReset st)

/-- The turn taken when nothing is scheduled: a running command's next step, which by 70 R331 has to come, and
otherwise the host's next instruction (log 1). -/
def defaultTurn (st : State) : Turn := if st.busy then .engine else .host

/-- The next turn of a state, and the state with that turn taken off its schedule. -/
def nextTurn (st : State) : Turn × State :=
  match st.schedule with
  | [] => (defaultTurn st, st)
  | t :: rest => (t, { st with schedule := rest })

end Sys2Proof.Machine
end

