-- ==== Sys2Proof/Machine/Step.lean ====
section
/-! DEFINITION. One step of the machine, and how a command word is placed as the next thing to run (log 2). -/

namespace Sys2Proof.Machine

/-- One step: the next turn of the total order (20 R82), under a configuration a model may run (93 item 2). -/
def step (st : State) : Host.Outcome State Fault Refusal :=
  if st.params.ok then runTurn (nextTurn st).1 (nextTurn st).2 else .refused .badConfiguration

/-- The state in which the very next turn is the host's write of the command word to CMD, with reset released so
that the write is served. The program of the engine is the sequence of words written to CMD (20 R87; log 2). -/
def State.withFetchWord (s : State) (nbits w : Nat) : State :=
  { s with
    schedule := .access (.write s.params.aesBase 4 (tableWord nbits w)) :: s.schedule
    resetIn := false }

end Sys2Proof.Machine
end

