-- ==== Sys2Proof/Machine/HostAsm.lean ====
section
/-! DEFINITION. The host assembly's source level: symbolic offsets, the expansion of every mnemonic and
pseudo-instruction, and labels resolved to instruction indexes (30 R108, R109; 44 R233). -/

namespace Sys2Proof.Machine

/-- CMD = 0x00 (30 R108). -/
def offCmd : Nat := 0x00
/-- STATUS = 0x04 (30 R108). -/
def offStatus : Nat := 0x04
/-- KEY0..KEY3 = 0x10, 0x14, 0x18, 0x1C (30 R108). -/
def offKey (j : Fin 4) : Nat := 0x10 + 4 * j.val
/-- DIN0..DIN3 = 0x20, 0x24, 0x28, 0x2C (30 R108). -/
def offDin (j : Fin 4) : Nat := 0x20 + 4 * j.val
/-- DOUT0..DOUT3 = 0x30, 0x34, 0x38, 0x3C (30 R108). -/
def offDout (j : Fin 4) : Nat := 0x30 + 4 * j.val

/-- `(len << 8) | op`, the word a command mnemonic writes (30 R109). -/
def commandWord (op : Word) (len : BitVec 8) : Word := (len.setWidth 32 <<< 8) ||| op

/-- Four writes of a block's words to four registers (30 R109, `ldkey` and `lddin`). -/
def loadLines (off : Fin 4 → Nat) (b : Block) : List HostLine :=
  [.wrImm (off 0) (laneWord b 0), .wrImm (off 1) (laneWord b 1), .wrImm (off 2) (laneWord b 2),
    .wrImm (off 3) (laneWord b 3)]

/-- `rddout`: DOUT0..3 into t4..t7 (30 R109). -/
def rddoutLines : List HostLine :=
  [.rd 4 (offDout 0), .rd 5 (offDout 1), .rd 6 (offDout 2), .rd 7 (offDout 3)]

/-- `wait`: read STATUS into t0 and BUSY into t1 until BUSY is 0 (30 R109). -/
def waitLines (line : Nat) : List HostLine :=
  [.label (.ofWait line), .rd 0 offStatus, .andi 1 0 0x1, .bnez 1 (.ofWait line)]

/-- The expansion of line number `line` of a program (30 R109). -/
def expandSource (line : Nat) : HostSource → List HostLine
  | .plain l => [l]
  | .nop => [.wrImm offCmd 0x00000000]
  | .keyExpand len => [.wrImm offCmd (commandWord 0x1 len)]
  | .encryptBlock len => [.wrImm offCmd (commandWord 0x2 len)]
  | .decryptBlock len => [.wrImm offCmd (commandWord 0x3 len)]
  | .ldkey k => loadLines offKey k
  | .lddin b => loadLines offDin b
  | .rddout => rddoutLines
  | .wait => waitLines line
  | .construct k => loadLines offKey k ++ [.wrImm offCmd (commandWord 0x1 16)] ++ waitLines line
  | .encryptOne b =>
    loadLines offDin b ++ [.wrImm offCmd (commandWord 0x2 16)] ++ waitLines line ++ rddoutLines
  | .decryptOne b =>
    loadLines offDin b ++ [.wrImm offCmd (commandWord 0x3 16)] ++ waitLines line ++ rddoutLines

/-- The lines of a whole program, each `wait` with its own label. -/
def expandProgram (p : List HostSource) : List HostLine :=
  (p.zipIdx.map fun x => expandSource x.2 x.1).flatten

/-- The index of the instruction a label stands before, if the program defines it. -/
def labelIndex (l : Label) : List HostLine → Option Nat
  | [] => none
  | .label l' :: rest => if l' = l then some 0 else labelIndex l rest
  | _ :: rest => (labelIndex l rest).map (· + 1)

/-- A line as an instruction of the program `all`: none for a label's definition, and no program at all for a
branch to a label that is not defined. -/
def resolveLine (all : List HostLine) : HostLine → Option (List HostInstr)
  | .wrImm off imm => some [.wrImm off imm]
  | .wrReg off n => some [.wrReg off n]
  | .rd n off => some [.rd n off]
  | .andi n m imm => some [.andi n m imm]
  | .bnez n l => (labelIndex l all).map fun t => [.bnez n t]
  | .beqz n l => (labelIndex l all).map fun t => [.beqz n t]
  | .halt => some [.halt]
  | .label _ => some []

/-- The instructions of a list of lines of the program `all`. -/
def resolveLines (all : List HostLine) : List HostLine → Option (List HostInstr)
  | [] => some []
  | l :: rest => (resolveLine all l).bind fun i => (resolveLines all rest).map fun is => i ++ is

/-- A host program in the form the host agent runs. -/
def assemble (p : List HostSource) : Option (List HostInstr) :=
  resolveLines (expandProgram p) (expandProgram p)

/-- A program placed in the host, to be run from its first instruction; the scratch registers stay (log 2). -/
def loadProgram (p : List HostInstr) (st : State) : State :=
  { st with host := { st.host with prog := p, pc := 0, halted := false } }

/-- The host's check after a construction or a block call: DONE = 1 and ERR = 0 (30 R109; 70 R321). -/
def hostCheck (status : Word) : Bool := status &&& 0x00000F02 == 0x00000002

end Sys2Proof.Machine
end

