-- ==== Sys2Proof/Machine/Message.lean ====
section
/-! DEFINITION. The host message layer: PKCS#7 padding and raw block mode as functions of a message, and the
driver that computes them with the engine's block commands (45 R260 to R267). It adds no engine state and no
command (log 17). -/

namespace Sys2Proof.Machine

/-- The number of padding bytes, 1 to 16 (45 R261). -/
def padLength (n : Nat) : Nat := 16 - n % 16

/-- Pad(M) (45 R261). -/
def pad (m : List Byte) : List Byte :=
  m ++ List.replicate (padLength m.length) (BitVec.ofNat 8 (padLength m.length))

/-- The first 16 bytes of a list as a block; the callers give lists of at least 16. -/
def blockOf (l : List Byte) : Block := Vector.ofFn fun (k : Fin 16) => (l[k.val]?).getD 0

/-- The consecutive 16-byte blocks of a byte string (45 R262). -/
def splitBlocks (l : List Byte) : List Block :=
  (List.range (l.length / 16)).map fun j => blockOf (l.drop (16 * j))

/-- The bytes of blocks, in order (45 R262, R267). -/
def joinBlocks (bs : List Block) : List Byte := bs.flatMap Vector.toList

/-- The last step of decrypt: the final byte p is bound-checked before anything is indexed from the end, then the
trailing p bytes are compared and stripped (45 R263, R264). -/
def unpad (o : List Byte) : Except HostError (List Byte) :=
  let p := (o.getLast?.getD 0).toNat
  if p = 0 ∨ 16 < p then .error .invalidPadding
  else if (o.drop (o.length - p)).all (fun b => b.toNat == p) then .ok (o.take (o.length - p))
  else .error .invalidPadding

/-- encrypt(M) under the schedule W: each padded block in isolation (45 R262). -/
def messageEncrypt (w : Schedule) (m : List Byte) : List Byte :=
  joinBlocks ((splitBlocks (pad m)).map fun b => cipher b w)

/-- decrypt(C) under the schedule W (45 R263). -/
def messageDecrypt (w : Schedule) (c : List Byte) : Except HostError (List Byte) :=
  if c.length = 0 ∨ c.length % 16 ≠ 0 then .error .invalidInputLength
  else unpad (joinBlocks ((splitBlocks c).map fun b => invCipher b w))

/-- What a call of the driver answers: the state after it and what its caller gets, or the fault or refusal of the
run where an access stopped it (93 item 6). An error is the whole of what the caller gets (45 R265). -/
abbrev Drive (α : Type) := Host.Outcome (State × Except HostError α) Fault Refusal

/-- The rest of a run after a part of it. -/
def andThen {α β : Type} (r : Host.Outcome α Fault Refusal) (k : α → Host.Outcome β Fault Refusal) :
    Host.Outcome β Fault Refusal :=
  match r with
  | .next x => k x
  | .fault f => .fault f
  | .refused f => .refused f

/-- The host's program run to its end, at most `n` turns, with no turn between but the sequencer's: a running
command's steps come first, as when nothing is scheduled (70 R331; log 17). -/
def runProgram : Nat → State → Result
  | 0, st => .next st
  | n + 1, st =>
    if st.host.pc < st.host.prog.length then andThen (runTurn (defaultTurn st) st) (runProgram n) else .next st

/-- More turns than any call takes: 40 to end a command that still runs, then 40 sequencer steps and 8 host
instructions for a construction (10 R46; 30 R109). -/
def callTurns : Nat := 100

/-- The host back at its own program after a call; its scratch registers keep what the call left in them. -/
def returnHost (caller : HostAgent) (st : State) : State :=
  { st with host := { st.host with prog := caller.prog, pc := caller.pc, halted := caller.halted } }

/-- The host runs source lines from their first instruction to their end: the expansion of 30 R109, executed by the
host agent itself, t0 to t7 included. -/
def callHost (p : List HostSource) (st : State) : Result :=
  andThen (runProgram callTurns (loadProgram ((assemble p).getD []) st)) fun t => .next (returnHost st.host t)

/-- The host's check of t0 after a call, which `wait` left as the final STATUS, and what the caller gets: the value
read from the host's registers, or the error code (30 R109; 70 R321; 45 R265). -/
def checkedResult {α : Type} (value : HostAgent → α) (h : HostAgent) : Except HostError α :=
  if hostCheck (hostReg h 0) then .ok (value h) else .error (.command ((hostReg h 0).extractLsb' 8 4))

/-- A whole call: its lines, and then its check. -/
def driveCall {α : Type} (value : HostAgent → α) (p : List HostSource) (st : State) : Drive α :=
  andThen (callHost p st) fun t => .next (t, checkedResult value t.host)

/-- The block that `rddout` left in t4 to t7 (30 R109). -/
def doutRegs (h : HostAgent) : Block :=
  setLane (setLane (setLane (setLane Block.zero 0 (hostReg h 4)) 1 (hostReg h 5)) 2 (hostReg h 6)) 3 (hostReg h 7)

/-- The lines of a construction with the length the host presents; with 16 they are `construct K` (30 R109). With any
other the spec gives no lines, and that they are those of 16 with the other length is the model's choice (DESIGN
CHOICE, unsafe: log 22). -/
def constructLines (len : BitVec 8) (k : Block) : List HostSource :=
  if len = 16 then [.construct k] else [.ldkey k, .keyExpand len, .wait]

/-- The lines of a block call with the length the host presents; with 16 they are the pseudo-instruction
`encrypt_block B` or `decrypt_block B` (30 R109). With any other the spec gives no lines, and that they are those of
16 with the other length is the model's choice (DESIGN CHOICE, unsafe: log 22). -/
def blockLines (op : BlockOp) (len : BitVec 8) (b : Block) : List HostSource :=
  match op with
  | .encrypt => if len = 16 then [.encryptOne b] else [.lddin b, .encryptBlock len, .wait, .rddout]
  | .decrypt => if len = 16 then [.decryptOne b] else [.lddin b, .decryptBlock len, .wait, .rddout]

/-- The source's `Cipher(key)` (44 R233). A length other than 16 gives InvalidKeyLength (45 R265);
that a key has at most 255 bytes, what LEN can hold, is the model's choice (DESIGN CHOICE, safe: log 22). -/
def driveConstruct (len : BitVec 8) (k : Block) (st : State) : Drive Unit :=
  driveCall (fun _ => ()) (constructLines len k) st

/-- The source's `encrypt_block` or `decrypt_block`: the lines run to their end, `rddout` included, then t0 is
checked, and only then is t4 to t7 trusted (44 R233; 30 R109; 45 R260). A length other than 16 gives
InvalidBlockLength (45 R265); that a block has at most 255 bytes, what LEN can hold, is the model's choice (DESIGN
CHOICE, safe: log 22). -/
def driveBlock (op : BlockOp) (len : BitVec 8) (b : Block) (st : State) : Drive Block :=
  driveCall doutRegs (blockLines op len b) st

/-- One block call per block, in order; the first error ends all of it and no block is returned (45 R260, R262,
R265, R267). -/
def driveBlocks (op : BlockOp) : List Block → State → Drive (List Block)
  | [], st => .next (st, .ok [])
  | b :: rest, st =>
    andThen (driveBlock op 16 b st) fun x =>
      match x.2 with
      | .error e => .next (x.1, .error e)
      | .ok out => andThen (driveBlocks op rest x.1) fun y => .next (y.1, y.2.map fun outs => out :: outs)

/-- encrypt(M), driving the engine (45 R262). -/
def driveEncrypt (m : List Byte) (st : State) : Drive (List Byte) :=
  andThen (driveBlocks .encrypt (splitBlocks (pad m)) st) fun x => .next (x.1, x.2.map joinBlocks)

/-- decrypt(C), driving the engine; the length is checked before any command is issued (45 R263). -/
def driveDecrypt (c : List Byte) (st : State) : Drive (List Byte) :=
  if c.length = 0 ∨ c.length % 16 ≠ 0 then .next (st, .error .invalidInputLength)
  else andThen (driveBlocks .decrypt (splitBlocks c) st) fun x =>
    .next (x.1, x.2.bind fun outs => unpad (joinBlocks outs))

end Sys2Proof.Machine
end

