-- ==== Sys2Proof/Safety.lean ====
section
/-! DEFINITION. The terms claims use: the invariant of reachable states (10 R33 to R37, R49; 60 R285; 70 R311),
the writes and commands a turn makes, and what a read can depend on. -/

namespace Sys2Proof.Machine

/-- S after n rounds of the encryption of b: what the ENC sequence holds before round n + 1 (44 R226, R228). -/
def encAfter (w : Schedule) (b : Block) : Nat → Matrix
  | 0 => encStart w b
  | n + 1 => encRound w (encAfter w b n) (n + 1)

/-- S after n rounds of the decryption of b: what the DEC sequence holds before round key 9 - n (44 R227, R228). -/
def decAfter (w : Schedule) (b : Block) : Nat → Matrix
  | 0 => decStart w b
  | n + 1 => decRound w (decAfter w b n) (9 - n)

/-- The invariant of 10 R49, with what makes it inductive: where RND may stand, and what W and S hold, while a
command runs. -/
structure State.Inv (st : State) : Prop where
  /-- ERR is one of the codes 0 to 4; 5 to 15 are never produced (60 R280) -/
  err_legal : st.err.toNat ≤ 4
  /-- DROP = 1 implies ERR = 0 (60 R285) -/
  drop_err : st.drop = true → st.err = 0
  /-- DONE = 1 only after an accepted command (10 R34) -/
  done_err : st.done = true → st.err = 0
  /-- while a command runs, ERR = 0 and DONE = 0 (10 R49 (c)) -/
  busy_status : st.seq ≠ .idle → st.err = 0 ∧ st.done = false
  /-- KEYEXP: RND is the next word, KEY_VALID is 0, and the words below RND are those of KEY's expansion
  (10 R45, R49 (d)) -/
  keyexp : st.seq = .keyexp → 4 ≤ st.rnd.toNat ∧ st.rnd.toNat ≤ 43 ∧ st.keyValid = false ∧
    ∀ i, i < st.rnd.toNat → schedWord st.w i = schedWord (keyExpansion st.key) i
  /-- ENC: RND is the next round, KEY_VALID is 1, and S is DIN after RND - 1 rounds (10 R45, R49 (e)) -/
  enc : st.seq = .enc → 1 ≤ st.rnd.toNat ∧ st.rnd.toNat ≤ 10 ∧ st.keyValid = true ∧
    st.s = encAfter st.w st.din (st.rnd.toNat - 1)
  /-- DEC: RND is the next round key, KEY_VALID is 1, and S is DIN after 9 - RND rounds (10 R45, R49 (e)) -/
  dec : st.seq = .dec → st.rnd.toNat ≤ 9 ∧ st.keyValid = true ∧
    st.s = decAfter st.w st.din (9 - st.rnd.toNat)
  /-- KEY_VALID = 1 only over a complete expansion (10 R35, R49 (f)) -/
  key_valid : st.keyValid = true → ∃ k, st.w = keyExpansion k
  /-- while reset is asserted the engine stays at its reset values (70 R311) -/
  in_reset : st.resetIn = true → resetEngine st = st

/-- n steps of the machine (Host/Core.lean). -/
def runSteps (n : Nat) (st : State) : Result := Host.Core.run Sys2Proof.core n st

/-- The turn a step takes. -/
def State.turn (st : State) : Turn := (nextTurn st).1

/-- The bus access a turn makes, if any: address, width, and the value of a write (none for a read). -/
def turnAccess (t : Turn) (st : State) : Option (Nat × Nat × Option Word) :=
  match t with
  | .access (.write a n v) => some (a, n, some v)
  | .access (.read a n) => some (a, n, none)
  | .host =>
    if st.host.halted then none
    else match st.host.prog[st.host.pc]? with
      | some (.wrImm off imm) => some (st.params.aesBase + off, 4, some imm)
      | some (.wrReg off n) => some (st.params.aesBase + off, 4, some (hostReg st.host n))
      | some (.rd _ off) => some (st.params.aesBase + off, 4, none)
      | _ => none
  | _ => none

/-- The step of a state is a conforming write of v at offset `off` of the window. -/
def State.writes (st : State) (off : Nat) (v : Word) : Prop :=
  turnAccess st.turn st = some (st.params.aesBase + off, 4, some v)

/-- The step of a state is the issue of the non-NOP command word v: a write of it to CMD while idle
(44 R220). -/
def State.issues (st : State) (v : Word) : Prop :=
  st.writes 0 v ∧ st.busy = false ∧ fieldOp v ≠ 0

/-- Two states that differ at most in what no register shows: KEY, W, S and RND, the host's own state and the
schedule (10 R38, R41, R43, R45). -/
def sameWindow (x y : State) : Prop :=
  x.done = y.done ∧ x.keyValid = y.keyValid ∧ x.drop = y.drop ∧ x.err = y.err ∧ x.din = y.din ∧ x.dout = y.dout ∧
    x.busy = y.busy ∧ x.resetIn = y.resetIn ∧ x.params = y.params

/-- The host's registers after a block call whose expansion has run to its end: t0 the final STATUS, t1 = 0, t4 to t7
the words of DOUT, the other two as before, and the host back at its own program (30 section 3). -/
def afterBlockCall (before after : State) : Prop :=
  after.host.t[0] = after.statusWord ∧ after.host.t[1] = 0 ∧ after.host.t[2] = before.host.t[2] ∧
    after.host.t[3] = before.host.t[3] ∧ after.host.t[4] = laneWord after.dout 0 ∧
    after.host.t[5] = laneWord after.dout 1 ∧ after.host.t[6] = laneWord after.dout 2 ∧
    after.host.t[7] = laneWord after.dout 3 ∧ after.host.prog = before.host.prog ∧
    after.host.pc = before.host.pc ∧ after.host.halted = before.host.halted

/-- A stop that a model of the engine gives for what the host or the platform did, not for a command. -/
def hostsOwnStop (r : Result) : Prop :=
  match r with
  | .next _ => False
  | .fault .accessDuringReset => True
  | .fault (.busError _ _) => True
  | .fault .sequencerOutOfRange => False
  | .refused .badConfiguration => True
  | .refused .outsideWindow => True
  | .refused _ => False

end Sys2Proof.Machine
end

