-- ==== Sys2Proof/Certificates/Slice0/Obligations.lean ====
section
/-! DEFINITION. The statements for the provers. Each docstring names the rule or section of spec/ it formalises; a
statement that rests on a choice of the model names its log entry. -/

open Sys2Proof Sys2Proof.Machine

/-! ### Encoding -/

/-- Decode and encode agree on every well-formed instruction (30 section 1). -/
def Obligations.DecodeEncodeRoundTrip : Prop :=
  ∀ i : Instr, i.wf = true → decode (encode i) = i

/-- Every word decodes to a well-formed instruction of which it is the encoding (30 section 1): the decoder is
total and drops no bit. That ignored bits are kept is the model's choice (log 13). -/
def Obligations.EncodeDecodeIsIdentity : Prop :=
  ∀ v : Word, (decode v).wf = true ∧ encode (decode v) = v

/-- Words of 95 section 6.1 decode to the instructions they stand for. -/
def Obligations.SpecWordsDecode : Prop :=
  decode 0x00000000 = .nop 0 0 0 ∧ decode 0x00001001 = .keyExpand 16 ∧ decode 0x00001002 = .encryptBlock 16 ∧
    decode 0x0000ff03 = .decryptBlock 255 ∧ decode 0x00001004 = .illegalReservedOp 4 0 16 0 ∧
    decode 0x80001002 = .illegalReservedBits 2 0 16 0x8000

/-- 30 R104, on the word as a number: the checks in their order, and LEN as bits [15:8]. -/
def Obligations.DecoderFollowsItsChecks : Prop :=
  ∀ v : Word,
    (v.toNat % 8 = 0 → ∃ a b c, decode v = .nop a b c) ∧
    (v.toNat / 4 % 2 = 1 → ∃ a b c d, decode v = .illegalReservedOp a b c d) ∧
    (v.toNat % 8 ≠ 0 → v.toNat / 4 % 2 = 0 → (v.toNat / 8 % 32 ≠ 0 ∨ v.toNat / 65536 ≠ 0) →
      ∃ a b c d, decode v = .illegalReservedBits a b c d) ∧
    (v.toNat / 8 % 32 = 0 → v.toNat / 65536 = 0 →
      (v.toNat % 8 = 1 → decode v = .keyExpand (BitVec.ofNat 8 (v.toNat / 256))) ∧
      (v.toNat % 8 = 2 → decode v = .encryptBlock (BitVec.ofNat 8 (v.toNat / 256))) ∧
      (v.toNat % 8 = 3 → decode v = .decryptBlock (BitVec.ofNat 8 (v.toNat / 256))))

/-! ### The commands at their issue -/

/-- 44 R221: NOP while idle changes no state, while busy it sets DROP; every word with OP = 0 is one. -/
def Obligations.NopChangesNothing : Prop :=
  (∀ (a : BitVec 5) (b : BitVec 8) (c : BitVec 16) (st : State),
    (st.busy = false → exec (.nop a b c) st = .next st) ∧
    (st.busy = true → exec (.nop a b c) st = .next { st with drop := true })) ∧
  ∀ v : Word, v.toNat % 8 = 0 → ∃ a b c, decode v = .nop a b c

/-- 44 R225: a reserved OP, and an operation with a nonzero reserved bit, clear DONE and DROP and report
ILLEGAL_CMD while idle; while busy they only set DROP. -/
def Obligations.IllegalWordIsReported : Prop :=
  (∀ (op : BitVec 3) (a : BitVec 5) (b : BitVec 8) (c : BitVec 16) (st : State),
    (st.busy = false →
      exec (.illegalReservedOp op a b c) st = .next { st with done := false, drop := false, err := 4 } ∧
      exec (.illegalReservedBits op a b c) st = .next { st with done := false, drop := false, err := 4 }) ∧
    (st.busy = true →
      exec (.illegalReservedOp op a b c) st = .next { st with drop := true } ∧
      exec (.illegalReservedBits op a b c) st = .next { st with drop := true })) ∧
  ∀ v : Word,
    (v.toNat / 4 % 2 = 1 → ∃ a b c d, decode v = .illegalReservedOp a b c d) ∧
    (1 ≤ v.toNat % 8 → v.toNat % 8 ≤ 3 → (v.toNat / 8 % 32 ≠ 0 ∨ v.toNat / 65536 ≠ 0) →
      ∃ a b c d, decode v = .illegalReservedBits a b c d)

/-- 44 R220: while BUSY is 1 a command word only sets DROP; while it is 0 a write of v to CMD is `issue(v)`, case by
case. -/
def Obligations.IssueFollowsItsCases : Prop :=
  ∀ (v : Word) (st : State),
    (st.busy = true → exec (decode v) st = .next { st with drop := true }) ∧
    (st.busy = false → st.resetIn = false → memWrite st.params.aesBase 4 v st = exec (decode v) st) ∧
    (st.busy = false →
      let cleared : State := { st with done := false, drop := false, err := 0 }
      match decode v with
      | .nop _ _ _ => exec (decode v) st = .next st
      | .illegalReservedOp _ _ _ _ => exec (decode v) st = .next { cleared with err := 4 }
      | .illegalReservedBits _ _ _ _ => exec (decode v) st = .next { cleared with err := 4 }
      | .keyExpand len => exec (decode v) st = .next (
          if len ≠ 16 then { cleared with err := 1 }
          else { cleared with w := loadKeyWords st.w st.key, keyValid := false, rnd := 4, seq := .keyexp })
      | .encryptBlock len => exec (decode v) st = .next (
          if st.keyValid = false then { cleared with err := 3 }
          else if len ≠ 16 then { cleared with err := 2 }
          else { cleared with s := addRoundKey st.w (toState st.din) 0, rnd := 1, seq := .enc })
      | .decryptBlock len => exec (decode v) st = .next (
          if st.keyValid = false then { cleared with err := 3 }
          else if len ≠ 16 then { cleared with err := 2 }
          else { cleared with s := addRoundKey st.w (toState st.din) 10, rnd := 9, seq := .dec }))

/-- 44 R222 at issue: an accepted KEY_EXPAND loads words 0 to 3 from KEY byte by byte, clears KEY_VALID, and
changes nothing else but the fields named. -/
def Obligations.KeyExpandAccepted : Prop :=
  ∀ st : State, st.busy = false → ∃ t, exec (.keyExpand 16) st = .next t ∧
    (∀ i, i < 44 → ∀ j : Fin 4, wordByte (schedWord t.w i) j =
      if i < 4 then st.key.getD (4 * i + j.val) 0 else wordByte (schedWord st.w i) j) ∧
    t = { st with done := false, drop := false, err := 0, keyValid := false, w := t.w, rnd := 4, seq := .keyexp }

/-- 44 R223 at issue: S is DIN with round key 0 added, cell by cell; nothing else changes but the fields named. -/
def Obligations.EncryptBlockAccepted : Prop :=
  ∀ st : State, st.busy = false → st.keyValid = true → ∃ t, exec (.encryptBlock 16) st = .next t ∧
    (∀ r c : Fin 4, cell t.s r c =
      st.din.getD (4 * c.val + r.val) 0 ^^^ wordByte (schedWord st.w c.val) r) ∧
    t = { st with done := false, drop := false, err := 0, s := t.s, rnd := 1, seq := .enc }

/-- 44 R224 at issue: S is DIN with round key 10 added, cell by cell; nothing else changes but the fields named. -/
def Obligations.DecryptBlockAccepted : Prop :=
  ∀ st : State, st.busy = false → st.keyValid = true → ∃ t, exec (.decryptBlock 16) st = .next t ∧
    (∀ r c : Fin 4, cell t.s r c =
      st.din.getD (4 * c.val + r.val) 0 ^^^ wordByte (schedWord st.w (40 + c.val)) r) ∧
    t = { st with done := false, drop := false, err := 0, s := t.s, rnd := 9, seq := .dec }

/-- 44 R222 to R224, exceptions: KEY_EXPAND with any length but 16 is INVALID_KEY_LENGTH; a block command without a
key reports NO_KEY whatever its length, and with one INVALID_BLOCK_LENGTH for any length but 16. Each report leaves
everything but DONE, DROP and ERR as it was. -/
def Obligations.WrongLengthOrNoKeyIsReported : Prop :=
  ∀ (len : BitVec 8) (st : State), st.busy = false →
    (len.toNat ≠ 16 → exec (.keyExpand len) st = .next { st with done := false, drop := false, err := 1 }) ∧
    (st.keyValid = false →
      exec (.encryptBlock len) st = .next { st with done := false, drop := false, err := 3 } ∧
      exec (.decryptBlock len) st = .next { st with done := false, drop := false, err := 3 }) ∧
    (st.keyValid = true → len.toNat ≠ 16 →
      exec (.encryptBlock len) st = .next { st with done := false, drop := false, err := 2 } ∧
      exec (.decryptBlock len) st = .next { st with done := false, drop := false, err := 2 })

/-- 60 R283: the one code an issue reports is that of the first failing check, in the fixed order ILLEGAL_CMD,
NO_KEY, length; on the command word as a number. -/
def Obligations.IssueReportsFirstFailingCheck : Prop :=
  ∀ (v : Word) (st : State), st.busy = false → v.toNat % 8 ≠ 0 → ∃ t, exec (decode v) st = .next t ∧
    t.err =
      if v.toNat / 4 % 2 = 1 ∨ v.toNat / 8 % 32 ≠ 0 ∨ v.toNat / 65536 ≠ 0 then 4
      else if v.toNat % 8 ≠ 1 ∧ st.keyValid = false then 3
      else if v.toNat / 256 % 256 ≠ 16 then (if v.toNat % 8 = 1 then 1 else 2)
      else 0

/-- 60 R282: the whole effect of an issue that reports an error is DONE = 0, DROP = 0 and ERR = the code. -/
def Obligations.RejectedIssueChangesOnlyStatus : Prop :=
  ∀ (i : Instr) (st t : State), st.busy = false → (∀ a b c, i ≠ .nop a b c) → exec i st = .next t → t.err ≠ 0 →
    t = { st with done := false, drop := false, err := t.err } ∧ t.busy = false

/-! ### Registers and the bus -/

/-- 20 R84: while BUSY, a conforming write to CMD, KEYj or DINj only sets DROP, and to any other offset does
nothing. -/
def Obligations.BusyWritesAreDropped : Prop :=
  ∀ (st : State) (off : Nat) (v : Word), st.busy = true → st.resetIn = false → off < 64 → off % 4 = 0 →
    memWrite (st.params.aesBase + off) 4 v st =
      .next (if off = 0 ∨ (0x10 ≤ off ∧ off < 0x30) then { st with drop := true } else st)

/-- 20 R76: every conforming write, byte lane by byte lane. -/
def Obligations.RegisterWrites : Prop :=
  ∀ (st : State) (v : Word), st.resetIn = false →
    memWrite (st.params.aesBase + 0x00) 4 v st =
      (if st.busy then .next { st with drop := true } else exec (decode v) st) ∧
    (∀ off, off = 0x04 ∨ off = 0x08 ∨ off = 0x0C ∨ off = 0x30 ∨ off = 0x34 ∨ off = 0x38 ∨ off = 0x3C →
      memWrite (st.params.aesBase + off) 4 v st = .next st) ∧
    (∀ j : Fin 4, ∃ k : Block,
      memWrite (st.params.aesBase + (0x10 + 4 * j.val)) 4 v st =
        .next (if st.busy then { st with drop := true } else { st with key := k }) ∧
      k.getD (4 * j.val) 0 = v.extractLsb' 24 8 ∧ k.getD (4 * j.val + 1) 0 = v.extractLsb' 16 8 ∧
      k.getD (4 * j.val + 2) 0 = v.extractLsb' 8 8 ∧ k.getD (4 * j.val + 3) 0 = v.extractLsb' 0 8 ∧
      ∀ n, n < 16 → n / 4 ≠ j.val → k.getD n 0 = st.key.getD n 0) ∧
    (∀ j : Fin 4, ∃ d : Block,
      memWrite (st.params.aesBase + (0x20 + 4 * j.val)) 4 v st =
        .next (if st.busy then { st with drop := true } else { st with din := d }) ∧
      d.getD (4 * j.val) 0 = v.extractLsb' 24 8 ∧ d.getD (4 * j.val + 1) 0 = v.extractLsb' 16 8 ∧
      d.getD (4 * j.val + 2) 0 = v.extractLsb' 8 8 ∧ d.getD (4 * j.val + 3) 0 = v.extractLsb' 0 8 ∧
      ∀ n, n < 16 → n / 4 ≠ j.val → d.getD n 0 = st.din.getD n 0)

/-- What every conforming read returns, whatever BUSY, and that a read changes no state of the engine (20 section 2);
that the model keeps the returned data in `readData` is log 5. -/
def Obligations.RegisterReads : Prop :=
  ∀ st : State, st.resetIn = false →
    (∀ off, off = 0x00 ∨ off = 0x08 ∨ off = 0x0C ∨ off = 0x10 ∨ off = 0x14 ∨ off = 0x18 ∨ off = 0x1C →
      memRead st (st.params.aesBase + off) 4 = .data 0) ∧
    memRead st (st.params.aesBase + 0x04) 4 =
      .data ((0 : BitVec 20) ++ st.err ++ (0 : BitVec 4) ++ BitVec.ofBool st.drop ++ BitVec.ofBool st.keyValid ++
        BitVec.ofBool st.done ++ BitVec.ofBool st.busy) ∧
    (∀ j : Fin 4,
      memRead st (st.params.aesBase + (0x20 + 4 * j.val)) 4 =
        .data (st.din.getD (4 * j.val) 0 ++ st.din.getD (4 * j.val + 1) 0 ++ st.din.getD (4 * j.val + 2) 0 ++
          st.din.getD (4 * j.val + 3) 0) ∧
      memRead st (st.params.aesBase + (0x30 + 4 * j.val)) 4 =
        .data (st.dout.getD (4 * j.val) 0 ++ st.dout.getD (4 * j.val + 1) 0 ++ st.dout.getD (4 * j.val + 2) 0 ++
          st.dout.getD (4 * j.val + 3) 0)) ∧
    ∀ off, off < 64 → off % 4 = 0 → ∃ v, memRead st (st.params.aesBase + off) 4 = .data v ∧
      access (.read (st.params.aesBase + off) 4) st = .next { st with readData := v }

/-- The bits of STATUS: BUSY always equals SEQ != IDLE (10 R33), the other fields stand where 10 section 1 puts
them, and the reserved bits are 0. -/
def Obligations.StatusBits : Prop :=
  ∀ st : State,
    st.statusWord.getLsbD 0 = decide (st.seq ≠ .idle) ∧ st.statusWord.getLsbD 1 = st.done ∧
    st.statusWord.getLsbD 2 = st.keyValid ∧ st.statusWord.getLsbD 3 = st.drop ∧
    (∀ k, k < 4 → st.statusWord.getLsbD (8 + k) = st.err.getLsbD k) ∧
    ∀ k, (4 ≤ k ∧ k < 8) ∨ 12 ≤ k → st.statusWord.getLsbD k = false

/-- A non-conforming access to the window, read or write, is a BusError with its offset and width (20 section 2;
93 item 6: a fault of the run); while reset is asserted every access to the window is a fault of its own
(70 section 1; 93 item 7). -/
def Obligations.WindowAccessFaults : Prop :=
  ∀ (st : State) (addr size : Nat) (v : Word), st.params.aesBase ≤ addr →
    addr < st.params.aesBase + 64 → 0 < size →
    (st.resetIn = false → (size ≠ 4 ∨ (addr - st.params.aesBase) % 4 ≠ 0) →
      memRead st addr size = .fault (.busError (BitVec.ofNat 6 (addr - st.params.aesBase)) size) ∧
      memWrite addr size v st = .fault (.busError (BitVec.ofNat 6 (addr - st.params.aesBase)) size)) ∧
    (st.resetIn = true →
      memRead st addr size = .fault .accessDuringReset ∧ memWrite addr size v st = .fault .accessDuringReset)

/-- No read tells KEY, W, S or RND: two states that agree on what the registers show give the same answer to every
access, conforming or not (10 section 2; 60 section 4). -/
def Obligations.ReadsHideTheSecrets : Prop :=
  ∀ (x y : State) (addr size : Nat), sameWindow x y → memRead x addr size = memRead y addr size

/-! ### The sequencer -/

/-- 44 section 4: the KEYEXP step, byte by byte; only word RND is written. -/
def Obligations.KeyExpStep : Prop :=
  ∀ st : State, st.seq = .keyexp → 4 ≤ st.rnd.toNat → st.rnd.toNat ≤ 43 → ∃ t, engineStep st = .next t ∧
    (∀ i, i < 44 → i ≠ st.rnd.toNat → schedWord t.w i = schedWord st.w i) ∧
    (∀ j : Fin 4, wordByte (schedWord t.w st.rnd.toNat) j =
      wordByte (schedWord st.w (st.rnd.toNat - 4)) j ^^^
        (if st.rnd.toNat % 4 = 0 then
          sbox (wordByte (schedWord st.w (st.rnd.toNat - 1)) (j + 1)) ^^^
            (if j = 0 then rcon (st.rnd.toNat / 4 - 1) else 0)
        else wordByte (schedWord st.w (st.rnd.toNat - 1)) j)) ∧
    (st.rnd.toNat < 43 → t = { st with w := t.w, rnd := st.rnd + 1 }) ∧
    (st.rnd.toNat = 43 → t = { st with w := t.w, keyValid := true, done := true, seq := .idle })

/-- 44 section 4: the ENC and DEC steps. -/
def Obligations.BlockSteps : Prop :=
  (∀ st : State, st.seq = .enc → 1 ≤ st.rnd.toNat →
    (st.rnd.toNat ≤ 9 → engineStep st = .next { st with
      s := addRoundKey st.w (mixColumns (shiftRows (subBytes st.s))) st.rnd.toNat, rnd := st.rnd + 1 }) ∧
    (st.rnd.toNat = 10 → engineStep st = .next { st with
      s := addRoundKey st.w (shiftRows (subBytes st.s)) 10
      dout := toBytes (addRoundKey st.w (shiftRows (subBytes st.s)) 10), done := true, seq := .idle })) ∧
  ∀ st : State, st.seq = .dec →
    (1 ≤ st.rnd.toNat → st.rnd.toNat ≤ 9 → engineStep st = .next { st with
      s := invMixColumns (addRoundKey st.w (invSubBytes (invShiftRows st.s)) st.rnd.toNat), rnd := st.rnd - 1 }) ∧
    (st.rnd.toNat = 0 → engineStep st = .next { st with
      s := addRoundKey st.w (invSubBytes (invShiftRows st.s)) 0
      dout := toBytes (addRoundKey st.w (invSubBytes (invShiftRows st.s)) 0), done := true, seq := .idle })

/-- 44 R229: completion is one step. Before it DOUT, KEY_VALID and DONE keep their values; in it BUSY becomes 0,
DONE 1, ERR stays, and KEY_VALID or all of DOUT is set. -/
def Obligations.CompletionIsOneStep : Prop :=
  ∀ st t : State, st.seq ≠ .idle → engineStep st = .next t →
    (t.seq ≠ .idle →
      t.seq = st.seq ∧ t.dout = st.dout ∧ t.keyValid = st.keyValid ∧ t.done = st.done ∧ t.err = st.err) ∧
    (t.seq = .idle → t.busy = false ∧ t.done = true ∧ t.err = st.err ∧
      (st.seq = .keyexp → t.keyValid = true ∧ t.dout = st.dout) ∧
      (st.seq ≠ .keyexp → t.dout = toBytes t.s ∧ t.keyValid = st.keyValid))

/-- The sequencer has no step when SEQ = IDLE, and a step of it leaves KEY, DIN, DROP, ERR, the reset input and
everything outside the engine as they were (10 section 1; 44 section 4). -/
def Obligations.EngineStepFrame : Prop :=
  (∀ st : State, st.seq = .idle → engineStep st = .next st) ∧
  ∀ st t : State, engineStep st = .next t →
    t.key = st.key ∧ t.din = st.din ∧ t.drop = st.drop ∧ t.err = st.err ∧ t.resetIn = st.resetIn ∧
      t.host = st.host ∧ t.params = st.params ∧ t.schedule = st.schedule ∧ t.readData = st.readData

/-! ### What the commands compute -/

/-- 42 R171, R172: the words of KeyExpansion. -/
def Obligations.KeyExpansionRecurrence : Prop :=
  ∀ k : Block,
    (∀ i, i < 4 → ∀ j : Fin 4, wordByte (schedWord (keyExpansion k) i) j = k.getD (4 * i + j.val) 0) ∧
    ∀ i, 4 ≤ i → i ≤ 43 → ∀ j : Fin 4, wordByte (schedWord (keyExpansion k) i) j =
      wordByte (schedWord (keyExpansion k) (i - 4)) j ^^^
        (if i % 4 = 0 then
          sbox (wordByte (schedWord (keyExpansion k) (i - 1)) (j + 1)) ^^^
            (if j = 0 then rcon (i / 4 - 1) else 0)
        else wordByte (schedWord (keyExpansion k) (i - 1)) j)

/-- Issue plus 40 sequencer steps compute exactly KeyExpansion of KEY, from any old contents of W, and change
nothing else but the fields named; what RND holds afterwards is left open (44 section 2 and section 4). That the
sequencer runs when nothing is scheduled is log 1. -/
def Obligations.KeyExpandComputesSchedule : Prop :=
  ∀ st : State, st.params.ok = true → st.resetIn = false → st.busy = false → st.schedule = [] →
    ∃ t u, exec (.keyExpand 16) st = .next t ∧ runSteps 40 t = .next u ∧
      u = { st with done := true, drop := false, err := 0, keyValid := true, w := keyExpansion st.key, rnd := u.rnd }

/-- Issue plus 10 sequencer steps put exactly Cipher(DIN, W) into DOUT and change nothing else but the fields named;
what S and RND hold afterwards is left open (44 section 2 and section 4). That the sequencer runs when nothing is
scheduled is log 1. -/
def Obligations.EncryptComputesCipher : Prop :=
  ∀ st : State, st.params.ok = true → st.resetIn = false → st.busy = false → st.schedule = [] →
    st.keyValid = true →
    ∃ t u, exec (.encryptBlock 16) st = .next t ∧ runSteps 10 t = .next u ∧
      u = { st with done := true, drop := false, err := 0, dout := cipher st.din st.w, s := u.s, rnd := u.rnd }

/-- Issue plus 10 sequencer steps put exactly InvCipher(DIN, W) into DOUT and change nothing else but the fields named;
what S and RND hold afterwards is left open (44 section 2 and section 4). That the sequencer runs when nothing is
scheduled is log 1. -/
def Obligations.DecryptComputesInvCipher : Prop :=
  ∀ st : State, st.params.ok = true → st.resetIn = false → st.busy = false → st.schedule = [] →
    st.keyValid = true →
    ∃ t u, exec (.decryptBlock 16) st = .next t ∧ runSteps 10 t = .next u ∧
      u = { st with done := true, drop := false, err := 0, dout := invCipher st.din st.w, s := u.s, rnd := u.rnd }

/-- InvCipher and Cipher undo each other under every schedule, expanded or not (44 section 5). -/
def Obligations.CipherRoundTrip : Prop :=
  ∀ (w : Schedule) (b : Block), invCipher (cipher b w) w = b ∧ cipher (invCipher b w) w = b

/-- What each round transform computes, cell by cell with rows and columns modulo 4, that each inverse transform undoes
its forward transform on every state, that block and state conversion are inverse bijections, and that substitution
commutes with the row shift, forward and inverse (43 sections 1 to 6). -/
def Obligations.TransformsAreInverse : Prop :=
  (∀ (b : Block) (r c : Fin 4), cell (toState b) r c = b.getD (4 * c.val + r.val) 0 ∧ toBytes (toState b) = b) ∧
  (∀ (w : Schedule) (m : Matrix) (k : Nat) (r c : Fin 4),
    cell (subBytes m) r c = sbox (cell m r c) ∧ cell (invSubBytes m) r c = invSbox (cell m r c) ∧
    cell (shiftRows m) r c = cell m r (c + r) ∧ cell (invShiftRows m) r (c + r) = cell m r c ∧
    cell (mixColumns m) r c =
      gmul 0x02 (cell m r c) ^^^ gmul 0x03 (cell m (r + 1) c) ^^^ cell m (r + 2) c ^^^ cell m (r + 3) c ∧
    cell (invMixColumns m) r c =
      gmul 0x0e (cell m r c) ^^^ gmul 0x0b (cell m (r + 1) c) ^^^ gmul 0x0d (cell m (r + 2) c) ^^^
        gmul 0x09 (cell m (r + 3) c) ∧
    cell (addRoundKey w m k) r c = cell m r c ^^^ wordByte (schedWord w (4 * k + c.val)) r) ∧
  ∀ (w : Schedule) (m : Matrix) (k : Nat),
    toState (toBytes m) = m ∧ invSubBytes (subBytes m) = m ∧ subBytes (invSubBytes m) = m ∧
    invShiftRows (shiftRows m) = m ∧ shiftRows (invShiftRows m) = m ∧
    invMixColumns (mixColumns m) = m ∧ mixColumns (invMixColumns m) = m ∧
    addRoundKey w (addRoundKey w m k) k = m ∧
    subBytes (shiftRows m) = shiftRows (subBytes m) ∧
    invSubBytes (invShiftRows m) = invShiftRows (invSubBytes m)

/-- 43 sections 4: MixColumns is linear over XOR, and a column of four equal bytes is a fixed point of both mixing
transforms. -/
def Obligations.MixColumnsIsLinear : Prop :=
  (∀ m n : Matrix, mixColumns (mkMatrix fun r c => cell m r c ^^^ cell n r c) =
    mkMatrix fun r c => cell (mixColumns m) r c ^^^ cell (mixColumns n) r c) ∧
  ∀ (m : Matrix) (c : Fin 4) (x : Byte), (∀ r, cell m r c = x) →
    ∀ r, cell (mixColumns m) r c = x ∧ cell (invMixColumns m) r c = x

/-- The laws of multiplication in GF(2^8) (41, laws of the product). -/
def Obligations.GmulFieldLaws : Prop :=
  ∀ a b c : Byte,
    gmul a b = gmul b a ∧ gmul (gmul a b) c = gmul a (gmul b c) ∧
    gmul a (b ^^^ c) = gmul a b ^^^ gmul a c ∧ gmul a 0 = 0 ∧ gmul 0 b = 0 ∧ gmul a 1 = a ∧ gmul 1 b = b ∧
    (a ≠ 0 → ∃ x, gmul a x = 1 ∧ ∀ y, gmul a y = 1 → y = x)

/-- The product is the XOR of the xtime chain of `a` over the set bits of `b`, and xtime doubles and reduces by 0x11B
(41, xtime). -/
def Obligations.GmulIsXtimeChain : Prop :=
  (∀ a b : Byte, gmul a b =
    (List.range 8).foldl (fun acc n => if b.getLsbD n then acc ^^^ xtime^[n] a else acc) 0) ∧
  ∀ a : Byte, (xtime a).toNat = if a.toNat < 128 then 2 * a.toNat else (2 * a.toNat) ^^^ 0x11B

/-- INV_SBOX is the exact inverse of SBOX, both ways, SBOX has no fixed point and no opposite fixed point, and
RCON[0] = 0x01 with each further constant the one before it times 0x02 (40 sections 2 to 4). -/
def Obligations.TablesAreAsMade : Prop :=
  (∀ b : Byte, invSbox (sbox b) = b ∧ sbox (invSbox b) = b ∧ sbox b ≠ b ∧ sbox b ≠ b ^^^ 0xff) ∧
  rcon 0 = 0x01 ∧ ∀ j, j < 9 → rcon (j + 1) = gmul (rcon j) 0x02

/-- SBOX is the affine image of the multiplicative inverse (40 section 4). -/
def Obligations.SboxIsAffineOfInverse : Prop :=
  sbox 0 = 0x63 ∧ ∀ x y : Byte, gmul x y = 1 → ∀ i, i < 8 →
    (sbox x).getLsbD i =
      ((((y.getLsbD i ^^ y.getLsbD ((i + 4) % 8)) ^^ y.getLsbD ((i + 5) % 8)) ^^ y.getLsbD ((i + 6) % 8)) ^^
        (y.getLsbD ((i + 7) % 8) ^^ (0x63 : Byte).getLsbD i))

/-! ### The machine as a whole -/

/-- The invariant of 10 section 3 holds at reset. -/
def Obligations.ResetMeetsInvariant : Prop := State.reset.Inv

/-- Every step keeps the invariant, from every state that meets it (10 section 3). -/
def Obligations.StepKeepsInvariant : Prop :=
  ∀ st t : State, st.Inv → step st = .next t → t.Inv

/-- The reset values of 70 section 1: asserting reset puts every item at its value from any state and leaves the reset
input asserted; releasing it changes the input alone, and right after both turns the engine is in IDLE and serves
accesses; `State.reset` holds the same values. That the assertion and the release are turns is log 8, and that the
host is no item of it is log 4. -/
def Obligations.ResetValues : Prop :=
  (∀ (st : State) (rest : List Turn), st.params.ok = true → st.schedule = .assertReset :: rest →
    ∃ t, step st = .next t ∧ t.busy = false ∧ t.done = false ∧ t.keyValid = false ∧ t.drop = false ∧ t.err = 0 ∧
      t.statusWord = 0 ∧
      (∀ k, k < 16 → t.key.getD k 0xff = 0 ∧ t.din.getD k 0xff = 0 ∧ t.dout.getD k 0xff = 0) ∧
      (∀ i, i < 44 → ∀ j : Fin 4, wordByte (schedWord t.w i) j = 0) ∧ (∀ r c : Fin 4, cell t.s r c = 0) ∧
      t.seq = .idle ∧ t.rnd = 0 ∧ t.resetIn = true ∧ t.host = st.host ∧ t.params = st.params ∧
      t.readData = st.readData ∧ t.schedule = rest) ∧
  (∀ (st : State) (rest : List Turn), st.params.ok = true → st.schedule = .releaseReset :: rest →
    step st = .next { st with resetIn := false, schedule := rest }) ∧
  (∀ (st : State) (rest : List Turn), st.params.ok = true → st.schedule = .assertReset :: .releaseReset :: rest →
    ∃ t, runSteps 2 st = .next t ∧ t.seq = .idle ∧ t.resetIn = false ∧
      memRead t (t.params.aesBase + 0x04) 4 = .data 0 ∧
      ∀ v, memWrite (t.params.aesBase + 0x00) 4 v t = exec (decode v) t) ∧
  State.reset.busy = false ∧ State.reset.done = false ∧ State.reset.keyValid = false ∧ State.reset.drop = false ∧
  State.reset.err = 0 ∧ State.reset.statusWord = 0 ∧
  (∀ k, k < 16 → State.reset.key.getD k 0xff = 0 ∧ State.reset.din.getD k 0xff = 0 ∧
    State.reset.dout.getD k 0xff = 0) ∧
  (∀ i, i < 44 → ∀ j : Fin 4, wordByte (schedWord State.reset.w i) j = 0) ∧
  (∀ r c : Fin 4, cell State.reset.s r c = 0) ∧ State.reset.seq = .idle ∧ State.reset.rnd = 0 ∧
  State.reset.resetIn = false

/-- A step whose turn is the host's write of a word to CMD is `exec` of the decoded word at that state, with only
the turn taken off the schedule; and so is a step of `withFetchWord`, and a host program's `wr CMD`, which also
moves the host past its instruction. -/
def Obligations.StepRunsTheDecodedCommand : Prop :=
  (∀ (st : State) (v : Word) (rest : List Turn), st.params.ok = true → st.resetIn = false →
    st.schedule = .access (.write st.params.aesBase 4 v) :: rest →
    step st = exec (decode v) { st with schedule := rest }) ∧
  (∀ (st : State) (w : Nat), st.params.ok = true →
    step (st.withFetchWord 32 w) = exec (decode (BitVec.ofNat 32 w)) { st with resetIn := false }) ∧
  ∀ (st : State) (v : Word) (rest : List Turn), st.params.ok = true → st.resetIn = false →
    st.schedule = .host :: rest → st.host.halted = false → st.host.prog[st.host.pc]? = some (.wrImm 0x00 v) →
    step st = exec (decode v) { st with schedule := rest, host := { st.host with pc := st.host.pc + 1 } }

/-- 10 R36: DROP is set exactly by a write ignored because BUSY is 1, and cleared exactly by the issue of a non-NOP
command while idle and by reset. -/
def Obligations.DropChangesOnlyAsStated : Prop :=
  ∀ st t : State, step st = .next t →
    (t.drop = true → st.drop = false →
      st.busy = true ∧ ∃ off v, st.writes off v ∧ (off = 0 ∨ (0x10 ≤ off ∧ off < 0x30))) ∧
    (t.drop = false → st.drop = true → st.turn = .assertReset ∨ ∃ v, st.issues v) ∧
    (∀ off v, st.busy = true → st.writes off v → (off = 0 ∨ (0x10 ≤ off ∧ off < 0x30)) → t.drop = true) ∧
    (∀ v, st.issues v → t.drop = false) ∧ (st.turn = .assertReset → t.drop = false)

/-- 10 R37: ERR is written at every issue of a non-NOP command while idle, to 0 when the command is accepted and to
the code of 60 R283's first failing check when it is rejected, and by reset to 0; nothing else changes it. -/
def Obligations.ErrChangesOnlyAsStated : Prop :=
  ∀ st t : State, step st = .next t →
    (t.err ≠ st.err → st.turn = .assertReset ∨ ∃ v, st.issues v) ∧
    (∀ v, st.issues v →
      (t.busy = true ↔ t.err = 0) ∧
      t.err =
        if v.toNat / 4 % 2 = 1 ∨ v.toNat / 8 % 32 ≠ 0 ∨ v.toNat / 65536 ≠ 0 then 4
        else if v.toNat % 8 ≠ 1 ∧ st.keyValid = false then 3
        else if v.toNat / 256 % 256 ≠ 16 then (if v.toNat % 8 = 1 then 1 else 2)
        else 0) ∧
    (st.turn = .assertReset → t.err = 0)

/-- KEY_VALID is set only by the completion of KEY_EXPAND and cleared only by the issue of an accepted KEY_EXPAND
and by reset (10 section 1). -/
def Obligations.KeyValidChangesOnlyAsStated : Prop :=
  ∀ st t : State, step st = .next t →
    (t.keyValid = true → st.keyValid = false → st.turn = .engine ∧ st.seq = .keyexp ∧ t.seq = .idle) ∧
    (t.keyValid = false → st.keyValid = true →
      st.turn = .assertReset ∨ ∃ v, st.issues v ∧ fieldOp v = 1 ∧ t.seq = .keyexp)

/-- KEY and DIN change only by a host write to them while idle and by reset (10 section 1; 70 section 1). -/
def Obligations.InputsChangeOnlyByIdleWrites : Prop :=
  ∀ st t : State, step st = .next t →
    (t.key ≠ st.key → st.turn = .assertReset ∨
      (st.busy = false ∧ ∃ off v, st.writes off v ∧ 0x10 ≤ off ∧ off < 0x20)) ∧
    (t.din ≠ st.din → st.turn = .assertReset ∨
      (st.busy = false ∧ ∃ off v, st.writes off v ∧ 0x20 ≤ off ∧ off < 0x30))

/-- DOUT changes only at the completion of a block command and by reset; W only by KEY_EXPAND (its issue and its
sequencer steps) and by reset (10 sections 1 and 2). -/
def Obligations.ResultsChangeOnlyAsStated : Prop :=
  ∀ st t : State, step st = .next t →
    (t.dout ≠ st.dout → st.turn = .assertReset ∨
      (st.turn = .engine ∧ (st.seq = .enc ∨ st.seq = .dec) ∧ t.seq = .idle ∧ t.dout = toBytes t.s)) ∧
    (t.w ≠ st.w → st.turn = .assertReset ∨ (st.turn = .engine ∧ st.seq = .keyexp) ∨
      ∃ v, st.issues v ∧ fieldOp v = 1 ∧ t.seq = .keyexp)

/-- An accepted command never fails: from every state that meets the invariant the sequencer's turn answers a next
state, and ERR stays 0 while it runs (60 section 2). -/
def Obligations.AcceptedCommandNeverFails : Prop :=
  ∀ st : State, st.Inv → ∃ t, engineTurn st = .next t ∧ (st.busy = true → t.err = 0)

/-- From every state that meets the invariant a step answers a next state, or it stops for what the host or the
platform did: a BusError, an access in reset, one outside the window, or a configuration that must be refused. From
every state a step is refused for its configuration exactly when the window is at no multiple of 0x40 or outside
BUS_AW bits, or a latency is 0 (93 item 2; 70 section 4); that a model refuses a latency of 0 is log 3. -/
def Obligations.OnlyTheHostCausesStops : Prop :=
  (∀ st : State, st.Inv → (∃ t, step st = .next t) ∨ hostsOwnStop (step st)) ∧
  ∀ st : State, step st = .refused .badConfiguration ↔
    (st.params.aesBase % 0x40 ≠ 0 ∨ 2 ^ st.params.busAw < st.params.aesBase + 64 ∨ st.params.latKey = 0 ∨
      st.params.latEnc = 0 ∨ st.params.latDec = 0)

/-- Whatever happened while a block command ran, when its sequencer step returns to IDLE DOUT is the cipher function
of the DIN and W that the whole run saw, DONE is 1 and ERR 0 (44 sections 4 and 5). -/
def Obligations.BlockCompletionPublishesResult : Prop :=
  ∀ st t : State, st.Inv → step st = .next t → st.turn ≠ .assertReset → t.seq = .idle →
    (st.seq = .enc → t.dout = cipher st.din st.w ∧ t.done = true ∧ t.err = 0) ∧
    (st.seq = .dec → t.dout = invCipher st.din st.w ∧ t.done = true ∧ t.err = 0) ∧
    (st.seq = .keyexp → t.w = keyExpansion st.key ∧ t.keyValid = true ∧ t.done = true ∧ t.err = 0)

/-- While a command runs, no turn but reset changes its inputs KEY and DIN or W's role in it: KEY and DIN keep their
values, and so does W unless the command is KEY_EXPAND (20 section 3). -/
def Obligations.RunningCommandInputsAreStable : Prop :=
  ∀ st t : State, st.busy = true → step st = .next t → st.turn ≠ .assertReset →
    t.key = st.key ∧ t.din = st.din ∧ (st.seq ≠ .keyexp → t.w = st.w) ∧ (t.busy = true → t.seq = st.seq)

/-- A running command ends: with nothing else scheduled, at most 40 steps bring SEQ to IDLE with DONE = 1 and
ERR = 0 (10 section 2; 70 section 4). That the sequencer runs when nothing is scheduled is log 1. -/
def Obligations.RunningCommandEnds : Prop :=
  ∀ st : State, st.Inv → st.params.ok = true → st.busy = true → st.schedule = [] →
    ∃ n u, n ≤ 40 ∧ runSteps n st = .next u ∧ u.busy = false ∧ u.done = true ∧ u.err = 0

/-- A CMD write in the same cycle as the completion step may be ordered either way: first, it is dropped and sets
DROP; second, it is issued (60 section 3; 93 item 5). -/
def Obligations.CompletionTieBothOrders : Prop :=
  ∀ (st c : State) (v : Word) (rest : List Turn), st.params.ok = true → st.resetIn = false → st.busy = true →
    engineStep { st with schedule := rest } = .next c → c.busy = false →
    runSteps 2 { st with schedule := .access (.write st.params.aesBase 4 v) :: .engine :: rest } =
      .next { c with drop := true } ∧
    runSteps 2 { st with schedule := .engine :: .access (.write st.params.aesBase 4 v) :: rest } =
      exec (decode v) c

/-- No step changes the platform's parameters, and a turn of the engine, a raw access or the reset input leaves the
host agent alone (10 section 3; 30 section 3). These are the model's choices: that the parameters are data no step
changes is log 3, that the reset input leaves the host alone is log 4, and that a raw access does, its data going to
`readData`, is log 5. -/
def Obligations.ParametersAndHostAreOutside : Prop :=
  ∀ st t : State, step st = .next t → t.params = st.params ∧ (st.turn ≠ .host → t.host = st.host)

/-! ### The host -/

/-- What each host instruction does (30 section 3): the write or read at AES_BASE + OFF, the AND, the two branches,
and `halt`; every other host register keeps its value. -/
def Obligations.HostInstructions : Prop :=
  ∀ (st : State) (n m : Fin 8) (off l : Nat) (imm : Word),
    hostExec (.wrImm off imm) st =
      memWrite (st.params.aesBase + off) 4 imm { st with host := { st.host with pc := st.host.pc + 1 } } ∧
    hostExec (.wrReg off n) st =
      memWrite (st.params.aesBase + off) 4 st.host.t[n] { st with host := { st.host with pc := st.host.pc + 1 } } ∧
    (∀ v, memRead st (st.params.aesBase + off) 4 = .data v →
      hostExec (.rd n off) st =
        .next { st with host := { st.host with t := st.host.t.set n.val v, pc := st.host.pc + 1 } }) ∧
    hostExec (.andi n m imm) st =
      .next { st with host := { st.host with t := st.host.t.set n.val (st.host.t[m] &&& imm)
                                             pc := st.host.pc + 1 } } ∧
    hostExec (.bnez n l) st =
      .next { st with host := { st.host with pc := if st.host.t[n] ≠ 0 then l else st.host.pc + 1 } } ∧
    hostExec (.beqz n l) st =
      .next { st with host := { st.host with pc := if st.host.t[n] = 0 then l else st.host.pc + 1 } } ∧
    hostExec .halt st = .next { st with host := { st.host with halted := true } }

/-- 30 R109: every expansion of the table, and the host's check. That the fresh label of a `wait` is named by its line
is log 18, and that `len` is held to the 8 bits of LEN is log 21. -/
def Obligations.PseudoInstructionsExpand : Prop :=
  (∀ (line : Nat) (len : BitVec 8) (b : Block),
    expandSource line .nop = [.wrImm 0x00 0x00000000] ∧
    expandSource line (.keyExpand len) = [.wrImm 0x00 ((len.setWidth 32 <<< 8) ||| 0x1)] ∧
    expandSource line (.encryptBlock len) = [.wrImm 0x00 ((len.setWidth 32 <<< 8) ||| 0x2)] ∧
    expandSource line (.decryptBlock len) = [.wrImm 0x00 ((len.setWidth 32 <<< 8) ||| 0x3)] ∧
    expandSource line (.ldkey b) = [.wrImm 0x10 (laneWord b 0), .wrImm 0x14 (laneWord b 1),
      .wrImm 0x18 (laneWord b 2), .wrImm 0x1C (laneWord b 3)] ∧
    expandSource line (.lddin b) = [.wrImm 0x20 (laneWord b 0), .wrImm 0x24 (laneWord b 1),
      .wrImm 0x28 (laneWord b 2), .wrImm 0x2C (laneWord b 3)] ∧
    expandSource line .rddout = [.rd 4 0x30, .rd 5 0x34, .rd 6 0x38, .rd 7 0x3C] ∧
    expandSource line .wait =
      [.label (.ofWait line), .rd 0 0x04, .andi 1 0 0x1, .bnez 1 (.ofWait line)] ∧
    expandSource line (.construct b) = expandSource line (.ldkey b) ++ expandSource line (.keyExpand 16) ++
      expandSource line .wait ∧
    expandSource line (.encryptOne b) = expandSource line (.lddin b) ++ expandSource line (.encryptBlock 16) ++
      expandSource line .wait ++ expandSource line .rddout ∧
    expandSource line (.decryptOne b) = expandSource line (.lddin b) ++ expandSource line (.decryptBlock 16) ++
      expandSource line .wait ++ expandSource line .rddout) ∧
  ∀ t0 : Word, hostCheck t0 = true ↔ t0 &&& 0x00000F02 = 0x00000002

/-- The `wait` loop ends: from a state that meets the invariant, with the host at the loop and nothing else
scheduled, at most 43 steps bring the host past it with t1 = 0, t0 the final STATUS, and BUSY = 0 (30 section 3;
70 section 3). That the sequencer runs first when nothing is scheduled is log 1. -/
def Obligations.WaitLoopEnds : Prop :=
  ∀ (st : State) (p : Nat), st.Inv → st.params.ok = true → st.resetIn = false → st.schedule = [] →
    st.host.halted = false → st.host.pc = p → st.host.prog[p]? = some (.rd 0 0x04) →
    st.host.prog[p + 1]? = some (.andi 1 0 0x1) → st.host.prog[p + 2]? = some (.bnez 1 p) →
    ∃ n u, n ≤ 43 ∧ runSteps n st = .next u ∧ u.host.pc = p + 3 ∧ u.host.t[1] = 0 ∧
      u.host.t[0] = u.statusWord ∧ u.busy = false

/-- 45 R261: the padding is p bytes of value p, p in 1..16, and the padded length is a positive multiple of 16 that
is greater than the message's. -/
def Obligations.PaddingRule : Prop :=
  ∀ m : List Byte, ∃ p, p = 16 - m.length % 16 ∧ 1 ≤ p ∧ p ≤ 16 ∧
    pad m = m ++ List.replicate p (BitVec.ofNat 8 p) ∧ (pad m).length = 16 * (m.length / 16 + 1) ∧
    m.length < (pad m).length

/-- 45 R263: when decrypt fails and with which error, in the order of its checks, and what it returns otherwise; O
is the concatenation of the deciphered blocks and p its final byte. -/
def Obligations.MessageDecryptChecks : Prop :=
  ∀ (w : Schedule) (c : List Byte),
    ((c.length = 0 ∨ c.length % 16 ≠ 0) → messageDecrypt w c = .error .invalidInputLength) ∧
    (c.length ≠ 0 → c.length % 16 = 0 → ∃ o : List Byte, o.length = c.length ∧
      (∀ j, j < c.length / 16 → (o.drop (16 * j)).take 16 =
        (invCipher (blockOf ((c.drop (16 * j)).take 16)) w).toList) ∧
      ∃ p : Byte, o[o.length - 1]? = some p ∧
        ((p.toNat = 0 ∨ 16 < p.toNat) → messageDecrypt w c = .error .invalidPadding) ∧
        (1 ≤ p.toNat → p.toNat ≤ 16 →
          ((∃ t, 1 ≤ t ∧ t ≤ p.toNat ∧ o[o.length - t]? ≠ some p) → messageDecrypt w c = .error .invalidPadding) ∧
          ((∀ t, 1 ≤ t → t ≤ p.toNat → o[o.length - t]? = some p) →
            messageDecrypt w c = .ok (o.take (o.length - p.toNat)))))

/-- Decrypting what was encrypted gives the message back, for every schedule and every message, the empty one and
aligned ones included (45, properties). -/
def Obligations.MessageRoundTrip : Prop :=
  ∀ (w : Schedule) (m : List Byte), messageDecrypt w (messageEncrypt w m) = .ok m

/-- The driver that encrypts a message by the pseudo-instruction `encrypt_block`, block after block, returns exactly
the message function under the loaded schedule and leaves the engine idle with the same schedule; with no schedule it
fails with NO_KEY, after the reads of `rddout` and the check of t0, and returns nothing (45, encrypt and errors).
That the driver is alone and how it waits is log 17. -/
def Obligations.DriverEncryptsMessages : Prop :=
  ∀ (st : State) (m : List Byte), st.params.ok = true → st.resetIn = false → st.busy = false →
    (st.keyValid = true → ∃ t, driveEncrypt m st = .next (t, .ok (messageEncrypt st.w m)) ∧
      t.busy = false ∧ t.keyValid = true ∧ t.w = st.w ∧ t.key = st.key ∧ t.statusWord = 0x00000006 ∧
      afterBlockCall st t) ∧
    (st.keyValid = false → ∃ t, driveEncrypt m st = .next (t, .error (.command 3)) ∧
      t.busy = false ∧ t.dout = st.dout ∧ t.w = st.w ∧ t.key = st.key ∧ t.statusWord = 0x00000300 ∧
      afterBlockCall st t)

/-- The driver that decrypts a message by the pseudo-instruction `decrypt_block`, block after block, returns exactly
what the message function returns, its errors included; with no schedule a bad length still fails first, with
InvalidInputLength and without a command, and any other input fails with NO_KEY and returns nothing (45, decrypt and
errors). That the driver is alone and how it waits is log 17. -/
def Obligations.DriverDecryptsMessages : Prop :=
  ∀ (st : State) (c : List Byte), st.params.ok = true → st.resetIn = false → st.busy = false →
    ((c.length = 0 ∨ c.length % 16 ≠ 0) → driveDecrypt c st = .next (st, .error .invalidInputLength)) ∧
    (c.length ≠ 0 → c.length % 16 = 0 →
      (st.keyValid = true → ∃ t, driveDecrypt c st = .next (t, messageDecrypt st.w c) ∧
        t.busy = false ∧ t.keyValid = true ∧ t.w = st.w ∧ t.key = st.key ∧ t.statusWord = 0x00000006 ∧
        afterBlockCall st t) ∧
      (st.keyValid = false → ∃ t, driveDecrypt c st = .next (t, .error (.command 3)) ∧
        t.busy = false ∧ t.dout = st.dout ∧ t.w = st.w ∧ t.key = st.key ∧ t.statusWord = 0x00000300 ∧
        afterBlockCall st t))

/-- A construction by the driver with a 16-byte key leaves the engine idle with KEY = K, W = KeyExpansion(K) and
KEY_VALID = 1; with any other length it fails with INVALID_KEY_LENGTH, and W and KEY_VALID keep their values. A block
call of any other length fails with INVALID_BLOCK_LENGTH, or with NO_KEY where there is no key, and DOUT, W, KEY and
KEY_VALID keep their values (44 section 6; 45, errors). That the driver is alone and how it waits is log 17, and that
a call with another length first writes KEY or DIN and then issues the command is log 22. -/
def Obligations.DriverConstructs : Prop :=
  ∀ (st : State) (k : Block) (len : BitVec 8), st.params.ok = true → st.resetIn = false → st.busy = false →
    (len = 16 → ∃ t, driveConstruct len k st = .next (t, .ok ()) ∧ t.key = k ∧ t.w = keyExpansion k ∧
      t.keyValid = true ∧ t.busy = false ∧ t.statusWord = 0x00000006 ∧ t.host.t[0] = 0x00000006) ∧
    (len ≠ 16 → ∃ t, driveConstruct len k st = .next (t, .error (.command 1)) ∧ t.key = k ∧ t.w = st.w ∧
      t.keyValid = st.keyValid ∧ t.busy = false ∧ t.err = 1 ∧ t.host.t[0] = t.statusWord) ∧
    (len ≠ 16 → ∀ (op : BlockOp) (b : Block),
      ∃ t, driveBlock op len b st = .next (t, .error (.command (if st.keyValid then 2 else 3))) ∧ t.din = b ∧
        t.dout = st.dout ∧ t.w = st.w ∧ t.key = st.key ∧ t.keyValid = st.keyValid ∧ t.busy = false ∧
        t.err = (if st.keyValid then 2 else 3) ∧ afterBlockCall st t)

/-- DONE becomes 1 only by a completing turn of the sequencer, and by every one of them; it becomes 0 only at the
issue of a non-NOP command while idle and by reset, and by each of these (10 section 1). -/
def Obligations.DoneChangesOnlyAsStated : Prop :=
  ∀ st t : State, step st = .next t →
    (t.done = true → st.done = false → st.turn = .engine ∧ st.seq ≠ .idle ∧ t.seq = .idle) ∧
    (st.turn = .engine → st.seq ≠ .idle → t.seq = .idle → t.done = true) ∧
    (t.done = false → st.done = true → st.turn = .assertReset ∨ ∃ v, st.issues v) ∧
    (∀ v, st.issues v → t.done = false) ∧ (st.turn = .assertReset → t.done = false)
end

