-- ==== Sys2Proof/Laws/State.lean ====
section
/-! SUPPORT. One lemma per field per update of the state, so that no later proof unfolds a record update. -/

namespace Sys2Proof.Machine

theorem busy_eq (st : State) : st.busy = (st.seq != .idle) := rfl

theorem busy_false_iff (st : State) : st.busy = false ↔ st.seq = .idle := by
  cases h : st.seq <;> simp [busy_eq, h]

theorem busy_true_iff (st : State) : st.busy = true ↔ st.seq ≠ .idle := by
  cases h : st.seq <;> simp [busy_eq, h]

@[simp] theorem clearStatus_done (st : State) : st.clearStatus.done = false := rfl
@[simp] theorem clearStatus_keyValid (st : State) : st.clearStatus.keyValid = st.keyValid := rfl
@[simp] theorem clearStatus_drop (st : State) : st.clearStatus.drop = false := rfl
@[simp] theorem clearStatus_err (st : State) : st.clearStatus.err = 0 := rfl
@[simp] theorem clearStatus_key (st : State) : st.clearStatus.key = st.key := rfl
@[simp] theorem clearStatus_din (st : State) : st.clearStatus.din = st.din := rfl
@[simp] theorem clearStatus_dout (st : State) : st.clearStatus.dout = st.dout := rfl
@[simp] theorem clearStatus_w (st : State) : st.clearStatus.w = st.w := rfl
@[simp] theorem clearStatus_s (st : State) : st.clearStatus.s = st.s := rfl
@[simp] theorem clearStatus_seq (st : State) : st.clearStatus.seq = st.seq := rfl
@[simp] theorem clearStatus_rnd (st : State) : st.clearStatus.rnd = st.rnd := rfl
@[simp] theorem clearStatus_resetIn (st : State) : st.clearStatus.resetIn = st.resetIn := rfl
@[simp] theorem clearStatus_host (st : State) : st.clearStatus.host = st.host := rfl
@[simp] theorem clearStatus_params (st : State) : st.clearStatus.params = st.params := rfl
@[simp] theorem clearStatus_schedule (st : State) : st.clearStatus.schedule = st.schedule := rfl
@[simp] theorem clearStatus_readData (st : State) : st.clearStatus.readData = st.readData := rfl

@[simp] theorem setDrop_done (st : State) : st.setDrop.done = st.done := rfl
@[simp] theorem setDrop_keyValid (st : State) : st.setDrop.keyValid = st.keyValid := rfl
@[simp] theorem setDrop_drop (st : State) : st.setDrop.drop = true := rfl
@[simp] theorem setDrop_err (st : State) : st.setDrop.err = st.err := rfl
@[simp] theorem setDrop_key (st : State) : st.setDrop.key = st.key := rfl
@[simp] theorem setDrop_din (st : State) : st.setDrop.din = st.din := rfl
@[simp] theorem setDrop_dout (st : State) : st.setDrop.dout = st.dout := rfl
@[simp] theorem setDrop_w (st : State) : st.setDrop.w = st.w := rfl
@[simp] theorem setDrop_s (st : State) : st.setDrop.s = st.s := rfl
@[simp] theorem setDrop_seq (st : State) : st.setDrop.seq = st.seq := rfl
@[simp] theorem setDrop_rnd (st : State) : st.setDrop.rnd = st.rnd := rfl
@[simp] theorem setDrop_resetIn (st : State) : st.setDrop.resetIn = st.resetIn := rfl
@[simp] theorem setDrop_host (st : State) : st.setDrop.host = st.host := rfl
@[simp] theorem setDrop_params (st : State) : st.setDrop.params = st.params := rfl
@[simp] theorem setDrop_schedule (st : State) : st.setDrop.schedule = st.schedule := rfl
@[simp] theorem setDrop_readData (st : State) : st.setDrop.readData = st.readData := rfl

@[simp] theorem setDone_done (st : State) : st.setDone.done = true := rfl
@[simp] theorem setDone_keyValid (st : State) : st.setDone.keyValid = st.keyValid := rfl
@[simp] theorem setDone_drop (st : State) : st.setDone.drop = st.drop := rfl
@[simp] theorem setDone_err (st : State) : st.setDone.err = st.err := rfl
@[simp] theorem setDone_key (st : State) : st.setDone.key = st.key := rfl
@[simp] theorem setDone_din (st : State) : st.setDone.din = st.din := rfl
@[simp] theorem setDone_dout (st : State) : st.setDone.dout = st.dout := rfl
@[simp] theorem setDone_w (st : State) : st.setDone.w = st.w := rfl
@[simp] theorem setDone_s (st : State) : st.setDone.s = st.s := rfl
@[simp] theorem setDone_seq (st : State) : st.setDone.seq = .idle := rfl
@[simp] theorem setDone_rnd (st : State) : st.setDone.rnd = st.rnd := rfl
@[simp] theorem setDone_resetIn (st : State) : st.setDone.resetIn = st.resetIn := rfl
@[simp] theorem setDone_host (st : State) : st.setDone.host = st.host := rfl
@[simp] theorem setDone_params (st : State) : st.setDone.params = st.params := rfl
@[simp] theorem setDone_schedule (st : State) : st.setDone.schedule = st.schedule := rfl
@[simp] theorem setDone_readData (st : State) : st.setDone.readData = st.readData := rfl

@[simp] theorem reportCmdError_done (e : CmdError) (st : State) : (reportCmdError e st).done = false := rfl
@[simp] theorem reportCmdError_keyValid (e : CmdError) (st : State) : (reportCmdError e st).keyValid = st.keyValid := rfl
@[simp] theorem reportCmdError_drop (e : CmdError) (st : State) : (reportCmdError e st).drop = false := rfl
@[simp] theorem reportCmdError_err (e : CmdError) (st : State) : (reportCmdError e st).err = e.code := rfl
@[simp] theorem reportCmdError_key (e : CmdError) (st : State) : (reportCmdError e st).key = st.key := rfl
@[simp] theorem reportCmdError_din (e : CmdError) (st : State) : (reportCmdError e st).din = st.din := rfl
@[simp] theorem reportCmdError_dout (e : CmdError) (st : State) : (reportCmdError e st).dout = st.dout := rfl
@[simp] theorem reportCmdError_w (e : CmdError) (st : State) : (reportCmdError e st).w = st.w := rfl
@[simp] theorem reportCmdError_s (e : CmdError) (st : State) : (reportCmdError e st).s = st.s := rfl
@[simp] theorem reportCmdError_seq (e : CmdError) (st : State) : (reportCmdError e st).seq = st.seq := rfl
@[simp] theorem reportCmdError_rnd (e : CmdError) (st : State) : (reportCmdError e st).rnd = st.rnd := rfl
@[simp] theorem reportCmdError_resetIn (e : CmdError) (st : State) : (reportCmdError e st).resetIn = st.resetIn := rfl
@[simp] theorem reportCmdError_host (e : CmdError) (st : State) : (reportCmdError e st).host = st.host := rfl
@[simp] theorem reportCmdError_params (e : CmdError) (st : State) : (reportCmdError e st).params = st.params := rfl
@[simp] theorem reportCmdError_schedule (e : CmdError) (st : State) : (reportCmdError e st).schedule = st.schedule := rfl
@[simp] theorem reportCmdError_readData (e : CmdError) (st : State) : (reportCmdError e st).readData = st.readData := rfl

@[simp] theorem startKeyExp_done (st : State) : (startKeyExp st).done = false := rfl
@[simp] theorem startKeyExp_keyValid (st : State) : (startKeyExp st).keyValid = false := rfl
@[simp] theorem startKeyExp_drop (st : State) : (startKeyExp st).drop = false := rfl
@[simp] theorem startKeyExp_err (st : State) : (startKeyExp st).err = 0 := rfl
@[simp] theorem startKeyExp_key (st : State) : (startKeyExp st).key = st.key := rfl
@[simp] theorem startKeyExp_din (st : State) : (startKeyExp st).din = st.din := rfl
@[simp] theorem startKeyExp_dout (st : State) : (startKeyExp st).dout = st.dout := rfl
@[simp] theorem startKeyExp_w (st : State) : (startKeyExp st).w = loadKeyWords st.w st.key := rfl
@[simp] theorem startKeyExp_s (st : State) : (startKeyExp st).s = st.s := rfl
@[simp] theorem startKeyExp_seq (st : State) : (startKeyExp st).seq = .keyexp := rfl
@[simp] theorem startKeyExp_rnd (st : State) : (startKeyExp st).rnd = 4 := rfl
@[simp] theorem startKeyExp_resetIn (st : State) : (startKeyExp st).resetIn = st.resetIn := rfl
@[simp] theorem startKeyExp_host (st : State) : (startKeyExp st).host = st.host := rfl
@[simp] theorem startKeyExp_params (st : State) : (startKeyExp st).params = st.params := rfl
@[simp] theorem startKeyExp_schedule (st : State) : (startKeyExp st).schedule = st.schedule := rfl
@[simp] theorem startKeyExp_readData (st : State) : (startKeyExp st).readData = st.readData := rfl

@[simp] theorem startEnc_done (st : State) : (startEnc st).done = false := rfl
@[simp] theorem startEnc_keyValid (st : State) : (startEnc st).keyValid = st.keyValid := rfl
@[simp] theorem startEnc_drop (st : State) : (startEnc st).drop = false := rfl
@[simp] theorem startEnc_err (st : State) : (startEnc st).err = 0 := rfl
@[simp] theorem startEnc_key (st : State) : (startEnc st).key = st.key := rfl
@[simp] theorem startEnc_din (st : State) : (startEnc st).din = st.din := rfl
@[simp] theorem startEnc_dout (st : State) : (startEnc st).dout = st.dout := rfl
@[simp] theorem startEnc_w (st : State) : (startEnc st).w = st.w := rfl
@[simp] theorem startEnc_s (st : State) : (startEnc st).s = encStart st.w st.din := rfl
@[simp] theorem startEnc_seq (st : State) : (startEnc st).seq = .enc := rfl
@[simp] theorem startEnc_rnd (st : State) : (startEnc st).rnd = 1 := rfl
@[simp] theorem startEnc_resetIn (st : State) : (startEnc st).resetIn = st.resetIn := rfl
@[simp] theorem startEnc_host (st : State) : (startEnc st).host = st.host := rfl
@[simp] theorem startEnc_params (st : State) : (startEnc st).params = st.params := rfl
@[simp] theorem startEnc_schedule (st : State) : (startEnc st).schedule = st.schedule := rfl
@[simp] theorem startEnc_readData (st : State) : (startEnc st).readData = st.readData := rfl

@[simp] theorem startDec_done (st : State) : (startDec st).done = false := rfl
@[simp] theorem startDec_keyValid (st : State) : (startDec st).keyValid = st.keyValid := rfl
@[simp] theorem startDec_drop (st : State) : (startDec st).drop = false := rfl
@[simp] theorem startDec_err (st : State) : (startDec st).err = 0 := rfl
@[simp] theorem startDec_key (st : State) : (startDec st).key = st.key := rfl
@[simp] theorem startDec_din (st : State) : (startDec st).din = st.din := rfl
@[simp] theorem startDec_dout (st : State) : (startDec st).dout = st.dout := rfl
@[simp] theorem startDec_w (st : State) : (startDec st).w = st.w := rfl
@[simp] theorem startDec_s (st : State) : (startDec st).s = decStart st.w st.din := rfl
@[simp] theorem startDec_seq (st : State) : (startDec st).seq = .dec := rfl
@[simp] theorem startDec_rnd (st : State) : (startDec st).rnd = 9 := rfl
@[simp] theorem startDec_resetIn (st : State) : (startDec st).resetIn = st.resetIn := rfl
@[simp] theorem startDec_host (st : State) : (startDec st).host = st.host := rfl
@[simp] theorem startDec_params (st : State) : (startDec st).params = st.params := rfl
@[simp] theorem startDec_schedule (st : State) : (startDec st).schedule = st.schedule := rfl
@[simp] theorem startDec_readData (st : State) : (startDec st).readData = st.readData := rfl

@[simp] theorem completeKeyExp_done (st : State) : (completeKeyExp st).done = true := rfl
@[simp] theorem completeKeyExp_keyValid (st : State) : (completeKeyExp st).keyValid = true := rfl
@[simp] theorem completeKeyExp_drop (st : State) : (completeKeyExp st).drop = st.drop := rfl
@[simp] theorem completeKeyExp_err (st : State) : (completeKeyExp st).err = st.err := rfl
@[simp] theorem completeKeyExp_key (st : State) : (completeKeyExp st).key = st.key := rfl
@[simp] theorem completeKeyExp_din (st : State) : (completeKeyExp st).din = st.din := rfl
@[simp] theorem completeKeyExp_dout (st : State) : (completeKeyExp st).dout = st.dout := rfl
@[simp] theorem completeKeyExp_w (st : State) : (completeKeyExp st).w = st.w := rfl
@[simp] theorem completeKeyExp_s (st : State) : (completeKeyExp st).s = st.s := rfl
@[simp] theorem completeKeyExp_seq (st : State) : (completeKeyExp st).seq = .idle := rfl
@[simp] theorem completeKeyExp_rnd (st : State) : (completeKeyExp st).rnd = st.rnd := rfl
@[simp] theorem completeKeyExp_resetIn (st : State) : (completeKeyExp st).resetIn = st.resetIn := rfl
@[simp] theorem completeKeyExp_host (st : State) : (completeKeyExp st).host = st.host := rfl
@[simp] theorem completeKeyExp_params (st : State) : (completeKeyExp st).params = st.params := rfl
@[simp] theorem completeKeyExp_schedule (st : State) : (completeKeyExp st).schedule = st.schedule := rfl
@[simp] theorem completeKeyExp_readData (st : State) : (completeKeyExp st).readData = st.readData := rfl

@[simp] theorem completeBlock_done (st : State) : (completeBlock st).done = true := rfl
@[simp] theorem completeBlock_keyValid (st : State) : (completeBlock st).keyValid = st.keyValid := rfl
@[simp] theorem completeBlock_drop (st : State) : (completeBlock st).drop = st.drop := rfl
@[simp] theorem completeBlock_err (st : State) : (completeBlock st).err = st.err := rfl
@[simp] theorem completeBlock_key (st : State) : (completeBlock st).key = st.key := rfl
@[simp] theorem completeBlock_din (st : State) : (completeBlock st).din = st.din := rfl
@[simp] theorem completeBlock_dout (st : State) : (completeBlock st).dout = toBytes st.s := rfl
@[simp] theorem completeBlock_w (st : State) : (completeBlock st).w = st.w := rfl
@[simp] theorem completeBlock_s (st : State) : (completeBlock st).s = st.s := rfl
@[simp] theorem completeBlock_seq (st : State) : (completeBlock st).seq = .idle := rfl
@[simp] theorem completeBlock_rnd (st : State) : (completeBlock st).rnd = st.rnd := rfl
@[simp] theorem completeBlock_resetIn (st : State) : (completeBlock st).resetIn = st.resetIn := rfl
@[simp] theorem completeBlock_host (st : State) : (completeBlock st).host = st.host := rfl
@[simp] theorem completeBlock_params (st : State) : (completeBlock st).params = st.params := rfl
@[simp] theorem completeBlock_schedule (st : State) : (completeBlock st).schedule = st.schedule := rfl
@[simp] theorem completeBlock_readData (st : State) : (completeBlock st).readData = st.readData := rfl

@[simp] theorem resetEngine_done (st : State) : (resetEngine st).done = false := rfl
@[simp] theorem resetEngine_keyValid (st : State) : (resetEngine st).keyValid = false := rfl
@[simp] theorem resetEngine_drop (st : State) : (resetEngine st).drop = false := rfl
@[simp] theorem resetEngine_err (st : State) : (resetEngine st).err = 0 := rfl
@[simp] theorem resetEngine_key (st : State) : (resetEngine st).key = Block.zero := rfl
@[simp] theorem resetEngine_din (st : State) : (resetEngine st).din = Block.zero := rfl
@[simp] theorem resetEngine_dout (st : State) : (resetEngine st).dout = Block.zero := rfl
@[simp] theorem resetEngine_w (st : State) : (resetEngine st).w = Schedule.zero := rfl
@[simp] theorem resetEngine_s (st : State) : (resetEngine st).s = Matrix.zero := rfl
@[simp] theorem resetEngine_seq (st : State) : (resetEngine st).seq = .idle := rfl
@[simp] theorem resetEngine_rnd (st : State) : (resetEngine st).rnd = 0 := rfl
@[simp] theorem resetEngine_resetIn (st : State) : (resetEngine st).resetIn = st.resetIn := rfl
@[simp] theorem resetEngine_host (st : State) : (resetEngine st).host = st.host := rfl
@[simp] theorem resetEngine_params (st : State) : (resetEngine st).params = st.params := rfl
@[simp] theorem resetEngine_schedule (st : State) : (resetEngine st).schedule = st.schedule := rfl
@[simp] theorem resetEngine_readData (st : State) : (resetEngine st).readData = st.readData := rfl

@[simp] theorem assertReset_done (st : State) : (assertReset st).done = false := rfl
@[simp] theorem assertReset_keyValid (st : State) : (assertReset st).keyValid = false := rfl
@[simp] theorem assertReset_drop (st : State) : (assertReset st).drop = false := rfl
@[simp] theorem assertReset_err (st : State) : (assertReset st).err = 0 := rfl
@[simp] theorem assertReset_key (st : State) : (assertReset st).key = Block.zero := rfl
@[simp] theorem assertReset_din (st : State) : (assertReset st).din = Block.zero := rfl
@[simp] theorem assertReset_dout (st : State) : (assertReset st).dout = Block.zero := rfl
@[simp] theorem assertReset_w (st : State) : (assertReset st).w = Schedule.zero := rfl
@[simp] theorem assertReset_s (st : State) : (assertReset st).s = Matrix.zero := rfl
@[simp] theorem assertReset_seq (st : State) : (assertReset st).seq = .idle := rfl
@[simp] theorem assertReset_rnd (st : State) : (assertReset st).rnd = 0 := rfl
@[simp] theorem assertReset_resetIn (st : State) : (assertReset st).resetIn = true := rfl
@[simp] theorem assertReset_host (st : State) : (assertReset st).host = st.host := rfl
@[simp] theorem assertReset_params (st : State) : (assertReset st).params = st.params := rfl
@[simp] theorem assertReset_schedule (st : State) : (assertReset st).schedule = st.schedule := rfl
@[simp] theorem assertReset_readData (st : State) : (assertReset st).readData = st.readData := rfl

@[simp] theorem releaseReset_done (st : State) : (releaseReset st).done = st.done := rfl
@[simp] theorem releaseReset_keyValid (st : State) : (releaseReset st).keyValid = st.keyValid := rfl
@[simp] theorem releaseReset_drop (st : State) : (releaseReset st).drop = st.drop := rfl
@[simp] theorem releaseReset_err (st : State) : (releaseReset st).err = st.err := rfl
@[simp] theorem releaseReset_key (st : State) : (releaseReset st).key = st.key := rfl
@[simp] theorem releaseReset_din (st : State) : (releaseReset st).din = st.din := rfl
@[simp] theorem releaseReset_dout (st : State) : (releaseReset st).dout = st.dout := rfl
@[simp] theorem releaseReset_w (st : State) : (releaseReset st).w = st.w := rfl
@[simp] theorem releaseReset_s (st : State) : (releaseReset st).s = st.s := rfl
@[simp] theorem releaseReset_seq (st : State) : (releaseReset st).seq = st.seq := rfl
@[simp] theorem releaseReset_rnd (st : State) : (releaseReset st).rnd = st.rnd := rfl
@[simp] theorem releaseReset_resetIn (st : State) : (releaseReset st).resetIn = false := rfl
@[simp] theorem releaseReset_host (st : State) : (releaseReset st).host = st.host := rfl
@[simp] theorem releaseReset_params (st : State) : (releaseReset st).params = st.params := rfl
@[simp] theorem releaseReset_schedule (st : State) : (releaseReset st).schedule = st.schedule := rfl
@[simp] theorem releaseReset_readData (st : State) : (releaseReset st).readData = st.readData := rfl

@[simp] theorem hostAdvance_done (st : State) : (hostAdvance st).done = st.done := rfl
@[simp] theorem hostAdvance_keyValid (st : State) : (hostAdvance st).keyValid = st.keyValid := rfl
@[simp] theorem hostAdvance_drop (st : State) : (hostAdvance st).drop = st.drop := rfl
@[simp] theorem hostAdvance_err (st : State) : (hostAdvance st).err = st.err := rfl
@[simp] theorem hostAdvance_key (st : State) : (hostAdvance st).key = st.key := rfl
@[simp] theorem hostAdvance_din (st : State) : (hostAdvance st).din = st.din := rfl
@[simp] theorem hostAdvance_dout (st : State) : (hostAdvance st).dout = st.dout := rfl
@[simp] theorem hostAdvance_w (st : State) : (hostAdvance st).w = st.w := rfl
@[simp] theorem hostAdvance_s (st : State) : (hostAdvance st).s = st.s := rfl
@[simp] theorem hostAdvance_seq (st : State) : (hostAdvance st).seq = st.seq := rfl
@[simp] theorem hostAdvance_rnd (st : State) : (hostAdvance st).rnd = st.rnd := rfl
@[simp] theorem hostAdvance_resetIn (st : State) : (hostAdvance st).resetIn = st.resetIn := rfl
@[simp] theorem hostAdvance_host (st : State) : (hostAdvance st).host = { st.host with pc := st.host.pc + 1 } := rfl
@[simp] theorem hostAdvance_params (st : State) : (hostAdvance st).params = st.params := rfl
@[simp] theorem hostAdvance_schedule (st : State) : (hostAdvance st).schedule = st.schedule := rfl
@[simp] theorem hostAdvance_readData (st : State) : (hostAdvance st).readData = st.readData := rfl

@[simp] theorem hostBranch_done (c : Bool) (n : Nat) (st : State) : (hostBranch c n st).done = st.done := rfl
@[simp] theorem hostBranch_keyValid (c : Bool) (n : Nat) (st : State) : (hostBranch c n st).keyValid = st.keyValid := rfl
@[simp] theorem hostBranch_drop (c : Bool) (n : Nat) (st : State) : (hostBranch c n st).drop = st.drop := rfl
@[simp] theorem hostBranch_err (c : Bool) (n : Nat) (st : State) : (hostBranch c n st).err = st.err := rfl
@[simp] theorem hostBranch_key (c : Bool) (n : Nat) (st : State) : (hostBranch c n st).key = st.key := rfl
@[simp] theorem hostBranch_din (c : Bool) (n : Nat) (st : State) : (hostBranch c n st).din = st.din := rfl
@[simp] theorem hostBranch_dout (c : Bool) (n : Nat) (st : State) : (hostBranch c n st).dout = st.dout := rfl
@[simp] theorem hostBranch_w (c : Bool) (n : Nat) (st : State) : (hostBranch c n st).w = st.w := rfl
@[simp] theorem hostBranch_s (c : Bool) (n : Nat) (st : State) : (hostBranch c n st).s = st.s := rfl
@[simp] theorem hostBranch_seq (c : Bool) (n : Nat) (st : State) : (hostBranch c n st).seq = st.seq := rfl
@[simp] theorem hostBranch_rnd (c : Bool) (n : Nat) (st : State) : (hostBranch c n st).rnd = st.rnd := rfl
@[simp] theorem hostBranch_resetIn (c : Bool) (n : Nat) (st : State) : (hostBranch c n st).resetIn = st.resetIn := rfl
@[simp] theorem hostBranch_host (c : Bool) (n : Nat) (st : State) : (hostBranch c n st).host = { st.host with pc := if c then n else st.host.pc + 1 } := rfl
@[simp] theorem hostBranch_params (c : Bool) (n : Nat) (st : State) : (hostBranch c n st).params = st.params := rfl
@[simp] theorem hostBranch_schedule (c : Bool) (n : Nat) (st : State) : (hostBranch c n st).schedule = st.schedule := rfl
@[simp] theorem hostBranch_readData (c : Bool) (n : Nat) (st : State) : (hostBranch c n st).readData = st.readData := rfl

@[simp] theorem loadProgram_done (p : List HostInstr) (st : State) : (loadProgram p st).done = st.done := rfl
@[simp] theorem loadProgram_keyValid (p : List HostInstr) (st : State) : (loadProgram p st).keyValid = st.keyValid := rfl
@[simp] theorem loadProgram_drop (p : List HostInstr) (st : State) : (loadProgram p st).drop = st.drop := rfl
@[simp] theorem loadProgram_err (p : List HostInstr) (st : State) : (loadProgram p st).err = st.err := rfl
@[simp] theorem loadProgram_key (p : List HostInstr) (st : State) : (loadProgram p st).key = st.key := rfl
@[simp] theorem loadProgram_din (p : List HostInstr) (st : State) : (loadProgram p st).din = st.din := rfl
@[simp] theorem loadProgram_dout (p : List HostInstr) (st : State) : (loadProgram p st).dout = st.dout := rfl
@[simp] theorem loadProgram_w (p : List HostInstr) (st : State) : (loadProgram p st).w = st.w := rfl
@[simp] theorem loadProgram_s (p : List HostInstr) (st : State) : (loadProgram p st).s = st.s := rfl
@[simp] theorem loadProgram_seq (p : List HostInstr) (st : State) : (loadProgram p st).seq = st.seq := rfl
@[simp] theorem loadProgram_rnd (p : List HostInstr) (st : State) : (loadProgram p st).rnd = st.rnd := rfl
@[simp] theorem loadProgram_resetIn (p : List HostInstr) (st : State) : (loadProgram p st).resetIn = st.resetIn := rfl
@[simp] theorem loadProgram_host (p : List HostInstr) (st : State) : (loadProgram p st).host = { st.host with prog := p, pc := 0, halted := false } := rfl
@[simp] theorem loadProgram_params (p : List HostInstr) (st : State) : (loadProgram p st).params = st.params := rfl
@[simp] theorem loadProgram_schedule (p : List HostInstr) (st : State) : (loadProgram p st).schedule = st.schedule := rfl
@[simp] theorem loadProgram_readData (p : List HostInstr) (st : State) : (loadProgram p st).readData = st.readData := rfl

@[simp] theorem returnHost_done (h : HostAgent) (st : State) : (returnHost h st).done = st.done := rfl
@[simp] theorem returnHost_keyValid (h : HostAgent) (st : State) : (returnHost h st).keyValid = st.keyValid := rfl
@[simp] theorem returnHost_drop (h : HostAgent) (st : State) : (returnHost h st).drop = st.drop := rfl
@[simp] theorem returnHost_err (h : HostAgent) (st : State) : (returnHost h st).err = st.err := rfl
@[simp] theorem returnHost_key (h : HostAgent) (st : State) : (returnHost h st).key = st.key := rfl
@[simp] theorem returnHost_din (h : HostAgent) (st : State) : (returnHost h st).din = st.din := rfl
@[simp] theorem returnHost_dout (h : HostAgent) (st : State) : (returnHost h st).dout = st.dout := rfl
@[simp] theorem returnHost_w (h : HostAgent) (st : State) : (returnHost h st).w = st.w := rfl
@[simp] theorem returnHost_s (h : HostAgent) (st : State) : (returnHost h st).s = st.s := rfl
@[simp] theorem returnHost_seq (h : HostAgent) (st : State) : (returnHost h st).seq = st.seq := rfl
@[simp] theorem returnHost_rnd (h : HostAgent) (st : State) : (returnHost h st).rnd = st.rnd := rfl
@[simp] theorem returnHost_resetIn (h : HostAgent) (st : State) : (returnHost h st).resetIn = st.resetIn := rfl
@[simp] theorem returnHost_params (h : HostAgent) (st : State) : (returnHost h st).params = st.params := rfl
@[simp] theorem returnHost_schedule (h : HostAgent) (st : State) : (returnHost h st).schedule = st.schedule := rfl
@[simp] theorem returnHost_readData (h : HostAgent) (st : State) : (returnHost h st).readData = st.readData := rfl
@[simp] theorem returnHost_host (h : HostAgent) (st : State) :
    (returnHost h st).host = { st.host with prog := h.prog, pc := h.pc, halted := h.halted } := rfl

/-! The state a turn starts from differs from the state itself in its schedule only. -/

@[simp] theorem nextTurn_done (st : State) : (nextTurn st).2.done = st.done := by
  unfold nextTurn; split <;> rfl
@[simp] theorem nextTurn_keyValid (st : State) : (nextTurn st).2.keyValid = st.keyValid := by
  unfold nextTurn; split <;> rfl
@[simp] theorem nextTurn_drop (st : State) : (nextTurn st).2.drop = st.drop := by
  unfold nextTurn; split <;> rfl
@[simp] theorem nextTurn_err (st : State) : (nextTurn st).2.err = st.err := by
  unfold nextTurn; split <;> rfl
@[simp] theorem nextTurn_key (st : State) : (nextTurn st).2.key = st.key := by
  unfold nextTurn; split <;> rfl
@[simp] theorem nextTurn_din (st : State) : (nextTurn st).2.din = st.din := by
  unfold nextTurn; split <;> rfl
@[simp] theorem nextTurn_dout (st : State) : (nextTurn st).2.dout = st.dout := by
  unfold nextTurn; split <;> rfl
@[simp] theorem nextTurn_w (st : State) : (nextTurn st).2.w = st.w := by
  unfold nextTurn; split <;> rfl
@[simp] theorem nextTurn_s (st : State) : (nextTurn st).2.s = st.s := by
  unfold nextTurn; split <;> rfl
@[simp] theorem nextTurn_seq (st : State) : (nextTurn st).2.seq = st.seq := by
  unfold nextTurn; split <;> rfl
@[simp] theorem nextTurn_rnd (st : State) : (nextTurn st).2.rnd = st.rnd := by
  unfold nextTurn; split <;> rfl
@[simp] theorem nextTurn_resetIn (st : State) : (nextTurn st).2.resetIn = st.resetIn := by
  unfold nextTurn; split <;> rfl
@[simp] theorem nextTurn_host (st : State) : (nextTurn st).2.host = st.host := by
  unfold nextTurn; split <;> rfl
@[simp] theorem nextTurn_params (st : State) : (nextTurn st).2.params = st.params := by
  unfold nextTurn; split <;> rfl
@[simp] theorem nextTurn_readData (st : State) : (nextTurn st).2.readData = st.readData := by
  unfold nextTurn; split <;> rfl

end Sys2Proof.Machine
end

