-- ==== Sys2Proof/Laws/Vec.lean ====
section
/-! SUPPORT. Small lemmas of the byte shapes: cells of a matrix, bytes of a word, words of a schedule, lanes of a
block. -/

namespace Sys2Proof.Machine

@[simp] theorem cell_mkMatrix (f : Fin 4 → Fin 4 → Byte) (r c : Fin 4) : cell (mkMatrix f) r c = f r c := by
  simp [cell, mkMatrix]

/-- Two matrices with the same cells are equal. -/
theorem matrix_ext {m n : Matrix} (h : ∀ r c, cell m r c = cell n r c) : m = n := by
  apply Vector.ext
  intro r hr
  apply Vector.ext
  intro c hc
  exact h ⟨r, hr⟩ ⟨c, hc⟩

@[simp] theorem wordByte_ofFn (f : Fin 4 → Byte) (j : Fin 4) : wordByte (Vector.ofFn f) j = f j := by
  simp [wordByte]

/-- Two words with the same bytes are equal. -/
theorem keyWord_ext {a b : KeyWord} (h : ∀ j, wordByte a j = wordByte b j) : a = b := by
  apply Vector.ext
  intro j hj
  exact h ⟨j, hj⟩

/-- A word of the schedule is its entry. -/
theorem schedWord_lt (w : Schedule) (i : Nat) (h : i < 44) : schedWord w i = w[i] := by
  simp [schedWord, Vector.getD, h]

/-- Two schedules with the same words are equal. -/
theorem schedule_ext {w v : Schedule} (h : ∀ i, i < 44 → schedWord w i = schedWord v i) : w = v := by
  apply Vector.ext
  intro i hi
  simpa [schedWord_lt _ _ hi] using h i hi

/-- Computing word i changes word i alone. -/
theorem schedWord_expandWord (w : Schedule) (i j : Nat) (hi : i < 44) :
    schedWord (expandWord w i) j = if j = i then nextWord w i else schedWord w j := by
  by_cases hj : j < 44
  · rw [schedWord_lt _ _ hj, schedWord_lt _ _ hj]
    simp only [expandWord, Vector.getElem_setIfInBounds]
    by_cases h : i = j
    · simp [h]
    · simp [h, Ne.symm h]
  · have : j ≠ i := by omega
    simp [schedWord, Vector.getD, hj, this]

/-- Loading a key sets words 0 to 3 and keeps the others. -/
theorem schedWord_loadKeyWords (w : Schedule) (k : Block) (i : Nat) (hi : i < 44) :
    schedWord (loadKeyWords w k) i = if i < 4 then keyChunk k i else schedWord w i := by
  rw [schedWord_lt _ _ hi, schedWord_lt _ _ hi]
  simp [loadKeyWords]

/-- A block's byte by number is its entry. -/
theorem block_getD (b : Block) (k : Nat) (h : k < 16) : b.getD k 0 = b[k] := by
  simp [Vector.getD, h]

/-- A write of a word register sets that register's four bytes and keeps the others. -/
theorem setLane_getD (b : Block) (j : Fin 4) (v : Word) (k : Nat) (h : k < 16) :
    (setLane b j v).getD k 0 = if k / 4 = j.val then laneByte v (k % 4) else b.getD k 0 := by
  rw [block_getD _ _ h, block_getD _ _ h]
  simp [setLane]

/-- The bytes a lane's value is made of are read back from it (20 R70). -/
theorem laneByte_append (b0 b1 b2 b3 : Byte) (i : Nat) (h : i < 4) :
    laneByte (b0 ++ b1 ++ b2 ++ b3) i = [b0, b1, b2, b3][i]'(by simpa using h) := by
  obtain rfl | rfl | rfl | rfl : i = 0 ∨ i = 1 ∨ i = 2 ∨ i = 3 := by omega
  all_goals
    apply BitVec.eq_of_getLsbD_eq
    intro k hk
    simp only [laneByte, BitVec.getLsbD_extractLsb', BitVec.getLsbD_append, List.getElem_cons_zero,
      List.getElem_cons_succ, hk, decide_true, Bool.true_and]
  · simp only [show ¬ (8 * (3 - 0) + k < 8) by omega, show ¬ (8 * (3 - 0) + k - 8 < 8) by omega,
      show ¬ (8 * (3 - 0) + k - 8 - 8 < 8) by omega, if_false]
    congr 1; omega
  · simp only [show ¬ (8 * (3 - 1) + k < 8) by omega, show ¬ (8 * (3 - 1) + k - 8 < 8) by omega,
      show 8 * (3 - 1) + k - 8 - 8 < 8 by omega, if_false, if_true]
    congr 1; omega
  · simp only [show ¬ (8 * (3 - 2) + k < 8) by omega, show 8 * (3 - 2) + k - 8 < 8 by omega, if_false, if_true]
    congr 1; omega
  · simp only [show 8 * (3 - 3) + k < 8 by omega, if_true]
    congr 1; omega

end Sys2Proof.Machine
end

