-- ==== Sys2Proof/Laws/Ops.lean ====
section
/-! SUPPORT. One lemma per shared operation that says once everything it can do: the gate, the commands, the
sequencer, register writes, bus accesses, the host's instructions and the turns. -/

namespace Sys2Proof.Machine

theorem whileIdle_idle (f : State → State) {st : State} (h : st.busy = false) : whileIdle f st = .next (f st) := by
  simp [whileIdle, h]

theorem whileIdle_busy (f : State → State) {st : State} (h : st.busy = true) :
    whileIdle f st = .next st.setDrop := by
  simp [whileIdle, h]

/-! Each arm of `exec`: the gate, with the effect the command has while idle. -/

theorem exec_nop (a b c) (st : State) : exec (.nop a b c) st = whileIdle (fun x => x) st := rfl
theorem exec_illegalReservedOp (a b c d) (st : State) :
    exec (.illegalReservedOp a b c d) st = whileIdle (reportCmdError .illegalCmd) st := rfl
theorem exec_keyExpand (len) (st : State) : exec (.keyExpand len) st = whileIdle (issueKeyExpand len) st := rfl
theorem exec_encryptBlock (len) (st : State) :
    exec (.encryptBlock len) st = whileIdle (issueBlock startEnc len) st := rfl
theorem exec_decryptBlock (len) (st : State) :
    exec (.decryptBlock len) st = whileIdle (issueBlock startDec len) st := rfl
theorem exec_illegalReservedBits (a b c d) (st : State) :
    exec (.illegalReservedBits a b c d) st = whileIdle (reportCmdError .illegalCmd) st := rfl

/-- Every command word written while BUSY is 1 only sets DROP (20 R84). -/
theorem exec_busy (i : Instr) {st : State} (h : st.busy = true) : exec i st = .next st.setDrop := by
  cases i
  case nop => rw [exec_nop, whileIdle_busy _ h]
  case illegalReservedOp => rw [exec_illegalReservedOp, whileIdle_busy _ h]
  case keyExpand => rw [exec_keyExpand, whileIdle_busy _ h]
  case encryptBlock => rw [exec_encryptBlock, whileIdle_busy _ h]
  case decryptBlock => rw [exec_decryptBlock, whileIdle_busy _ h]
  case illegalReservedBits => rw [exec_illegalReservedBits, whileIdle_busy _ h]

/-- The issue of a block command: it is rejected, or KEY_VALID is 1 and it starts (44 R220). -/
theorem issueBlock_cases (start : State → State) (len : BitVec 8) (st : State) :
    (∃ e, issueBlock start len st = reportCmdError e st) ∨
      (st.keyValid = true ∧ issueBlock start len st = start st) := by
  unfold issueBlock
  by_cases hk : st.keyValid = false
  · exact .inl ⟨_, if_pos hk⟩
  · rw [if_neg hk]
    by_cases hl : lenAccepted len = true
    · exact .inr ⟨by simpa using hk, if_pos hl⟩
    · exact .inl ⟨_, if_neg hl⟩

/-- The issue of KEY_EXPAND: it is rejected, or it starts (44 R220). -/
theorem issueKeyExpand_cases (len : BitVec 8) (st : State) :
    (∃ e, issueKeyExpand len st = reportCmdError e st) ∨ issueKeyExpand len st = startKeyExp st := by
  unfold issueKeyExpand
  by_cases hl : lenAccepted len = true
  · exact .inr (if_pos hl)
  · exact .inl ⟨_, if_neg hl⟩

/-- Everything the issue of a command can do (44 R220). -/
theorem exec_idle_cases (i : Instr) {st : State} (h : st.busy = false) :
    ∃ t, exec i st = .next t ∧ (t = st ∨ (∃ e, t = reportCmdError e st) ∨ t = startKeyExp st ∨
      (st.keyValid = true ∧ (t = startEnc st ∨ t = startDec st))) := by
  cases i with
  | nop => exact ⟨_, by rw [exec_nop, whileIdle_idle _ h], .inl rfl⟩
  | illegalReservedOp =>
    exact ⟨_, by rw [exec_illegalReservedOp, whileIdle_idle _ h], .inr (.inl ⟨_, rfl⟩)⟩
  | illegalReservedBits =>
    exact ⟨_, by rw [exec_illegalReservedBits, whileIdle_idle _ h], .inr (.inl ⟨_, rfl⟩)⟩
  | keyExpand len =>
    refine ⟨_, by rw [exec_keyExpand, whileIdle_idle _ h], ?_⟩
    obtain he | hs := issueKeyExpand_cases len st
    · exact .inr (.inl he)
    · exact .inr (.inr (.inl hs))
  | encryptBlock len =>
    refine ⟨_, by rw [exec_encryptBlock, whileIdle_idle _ h], ?_⟩
    obtain he | ⟨hk, hs⟩ := issueBlock_cases startEnc len st
    · exact .inr (.inl he)
    · exact .inr (.inr (.inr ⟨hk, .inl hs⟩))
  | decryptBlock len =>
    refine ⟨_, by rw [exec_decryptBlock, whileIdle_idle _ h], ?_⟩
    obtain he | ⟨hk, hs⟩ := issueBlock_cases startDec len st
    · exact .inr (.inl he)
    · exact .inr (.inr (.inr ⟨hk, .inr hs⟩))

/-- Everything the KEYEXP step can do (44 R228, R229). -/
theorem stepKeyExp_cases {st t : State} (h : stepKeyExp st = .next t) :
    4 ≤ st.rnd.toNat ∧ st.rnd.toNat ≤ 43 ∧
      ((st.rnd.toNat = 43 ∧ t = completeKeyExp { st with w := expandWord st.w 43 }) ∨
        (st.rnd.toNat < 43 ∧
          t = { st with w := expandWord st.w st.rnd.toNat, rnd := st.rnd + 1 })) := by
  simp only [stepKeyExp, Config.lastWord] at h
  by_cases h1 : st.rnd.toNat < 4 ∨ 43 < st.rnd.toNat
  · rw [if_pos h1] at h; cases h
  · rw [if_neg h1] at h
    by_cases h2 : st.rnd.toNat = 43
    · rw [if_pos h2] at h
      cases h
      exact ⟨by omega, by omega, .inl ⟨h2, by rw [h2]⟩⟩
    · rw [if_neg h2] at h
      cases h
      exact ⟨by omega, by omega, .inr ⟨by omega, rfl⟩⟩

/-- Everything the ENC step can do (44 R228, R229). -/
theorem stepEnc_cases {st t : State} (h : stepEnc st = .next t) :
    1 ≤ st.rnd.toNat ∧ st.rnd.toNat ≤ 10 ∧
      ((st.rnd.toNat = 10 ∧ t = completeBlock { st with s := encFinal st.w st.s }) ∨
        (st.rnd.toNat < 10 ∧
          t = { st with s := encRound st.w st.s st.rnd.toNat, rnd := st.rnd + 1 })) := by
  simp only [stepEnc, Config.rounds] at h
  by_cases h1 : st.rnd.toNat < 1 ∨ 10 < st.rnd.toNat
  · rw [if_pos h1] at h; cases h
  · rw [if_neg h1] at h
    by_cases h2 : st.rnd.toNat = 10
    · rw [if_pos h2] at h
      cases h
      exact ⟨by omega, by omega, .inl ⟨h2, rfl⟩⟩
    · rw [if_neg h2] at h
      cases h
      exact ⟨by omega, by omega, .inr ⟨by omega, rfl⟩⟩

/-- Everything the DEC step can do (44 R228, R229). -/
theorem stepDec_cases {st t : State} (h : stepDec st = .next t) :
    st.rnd.toNat ≤ 9 ∧
      ((st.rnd.toNat = 0 ∧ t = completeBlock { st with s := decFinal st.w st.s }) ∨
        (0 < st.rnd.toNat ∧
          t = { st with s := decRound st.w st.s st.rnd.toNat, rnd := st.rnd - 1 })) := by
  simp only [stepDec, Config.rounds] at h
  by_cases h1 : 10 ≤ st.rnd.toNat
  · rw [if_pos h1] at h; cases h
  · rw [if_neg h1] at h
    by_cases h2 : st.rnd.toNat = 0
    · rw [if_pos h2] at h
      cases h
      exact ⟨by omega, .inl ⟨h2, rfl⟩⟩
    · rw [if_neg h2] at h
      cases h
      exact ⟨by omega, .inr ⟨by omega, rfl⟩⟩

/-- Everything an engine turn can do: nothing in reset or while idle, else the sequencer's step (44 R228;
70 R312). -/
theorem engineTurn_cases {st t : State} (h : engineTurn st = .next t) :
    ((st.resetIn = true ∨ st.seq = .idle) ∧ t = st) ∨
      (st.resetIn = false ∧ ((st.seq = .keyexp ∧ stepKeyExp st = .next t) ∨
        (st.seq = .enc ∧ stepEnc st = .next t) ∨ (st.seq = .dec ∧ stepDec st = .next t))) := by
  unfold engineTurn at h
  split at h
  · cases h; exact .inl ⟨.inl ‹_›, rfl⟩
  · have hr : st.resetIn = false := by simp_all
    unfold engineStep at h
    split at h
    · cases h; exact .inl ⟨.inr ‹_›, rfl⟩
    · exact .inr ⟨hr, .inl ⟨‹_›, h⟩⟩
    · exact .inr ⟨hr, .inr (.inl ⟨‹_›, h⟩)⟩
    · exact .inr ⟨hr, .inr (.inr ⟨‹_›, h⟩)⟩

/-- Everything a conforming register write can do (20 R76). -/
theorem writeRegister_cases (off : BitVec 6) (v : Word) (st : State) :
    ∃ t, writeRegister off v st = .next t ∧
      ((windowReg off = .cmd ∧ exec (decode v) st = .next t) ∨
        ((windowReg off = .status ∨ windowReg off = .reserved ∨ ∃ j, windowReg off = .dout j) ∧ t = st) ∨
        (st.busy = true ∧ ((∃ j, windowReg off = .key j) ∨ ∃ j, windowReg off = .din j) ∧ t = st.setDrop) ∨
        (st.busy = false ∧ ∃ j, windowReg off = .key j ∧ t = { st with key := setLane st.key j v }) ∨
        (st.busy = false ∧ ∃ j, windowReg off = .din j ∧ t = { st with din := setLane st.din j v })) := by
  cases hw : windowReg off with
  | cmd =>
    have hex : ∃ t, exec (decode v) st = .next t := by
      cases hb : st.busy
      · obtain ⟨t, ht, -⟩ := exec_idle_cases (decode v) hb
        exact ⟨t, ht⟩
      · exact ⟨_, exec_busy _ hb⟩
    obtain ⟨t, ht⟩ := hex
    exact ⟨t, by simp [writeRegister, hw, ht], .inl ⟨rfl, ht⟩⟩
  | status => exact ⟨st, by simp [writeRegister, hw], by simp⟩
  | reserved => exact ⟨st, by simp [writeRegister, hw], by simp⟩
  | dout j => exact ⟨st, by simp [writeRegister, hw], by simp⟩
  | key j =>
    have he : writeRegister off v st = whileIdle (fun x => { x with key := setLane x.key j v }) st := by
      simp only [writeRegister, hw]
    cases hb : st.busy
    · exact ⟨_, he.trans (whileIdle_idle _ hb), .inr (.inr (.inr (.inl ⟨rfl, j, rfl, rfl⟩)))⟩
    · exact ⟨_, he.trans (whileIdle_busy _ hb), .inr (.inr (.inl ⟨rfl, .inl ⟨j, rfl⟩, rfl⟩))⟩
  | din j =>
    have he : writeRegister off v st = whileIdle (fun x => { x with din := setLane x.din j v }) st := by
      simp only [writeRegister, hw]
    cases hb : st.busy
    · exact ⟨_, he.trans (whileIdle_idle _ hb), .inr (.inr (.inr (.inr ⟨rfl, j, rfl, rfl⟩)))⟩
    · exact ⟨_, he.trans (whileIdle_busy _ hb), .inr (.inr (.inl ⟨rfl, .inr ⟨j, rfl⟩, rfl⟩))⟩

/-- A write that answers a next state is a conforming one, made while reset is released (20 R73, R74; 70 R311). -/
theorem memWrite_cases {addr size : Nat} {v : Word} {st t : State} (h : memWrite addr size v st = .next t) :
    st.resetIn = false ∧ ∃ off, windowHit st.params addr size = .register off ∧
      writeRegister off v st = .next t := by
  unfold memWrite at h
  split at h
  · cases h
  · cases h
  · rename_i off ho
    split at h
    · cases h
    · exact ⟨by simp_all, off, ho, h⟩

/-- A read that gives data is a conforming one, made while reset is released (20 R73 to R75; 70 R311). -/
theorem memRead_cases {addr size : Nat} {v : Word} {st : State} (h : memRead st addr size = .data v) :
    st.resetIn = false ∧ ∃ off, windowHit st.params addr size = .register off ∧ v = readRegister st off := by
  unfold memRead at h
  split at h
  · cases h
  · cases h
  · rename_i off ho
    split at h
    · cases h
    · cases h
      exact ⟨by simp_all, off, ho, rfl⟩

/-- An aligned 32-bit access at an offset of the window reaches the register at that offset (20 R73). -/
theorem windowHit_offset (p : Params) (off : Nat) (h4 : off % 4 = 0) (h : off < 64) :
    windowHit p (p.aesBase + off) 4 = .register (BitVec.ofNat 6 off) := by
  have hc : conforming p.aesBase (p.aesBase + off) 4 = true := by
    simp [conforming, h4]; omega
  rw [windowHit, if_pos hc, windowOffset]
  congr 1
  apply BitVec.eq_of_toNat_eq
  simp only [BitVec.toNat_sub, BitVec.toNat_ofNat]
  omega

/-- An access of width 0 is outside the window at every address (log 19). -/
theorem windowHit_width_zero (p : Params) (addr : Nat) : windowHit p addr 0 = .outside := by
  simp [windowHit, conforming, touchesWindow]

theorem memWrite_offset (st : State) (off : Nat) (v : Word) (h4 : off % 4 = 0) (h : off < 64)
    (hr : st.resetIn = false) :
    memWrite (st.params.aesBase + off) 4 v st = writeRegister (BitVec.ofNat 6 off) v st := by
  simp [memWrite, windowHit_offset _ _ h4 h, hr]

theorem memRead_offset (st : State) (off : Nat) (h4 : off % 4 = 0) (h : off < 64) (hr : st.resetIn = false) :
    memRead st (st.params.aesBase + off) 4 = .data (readRegister st (BitVec.ofNat 6 off)) := by
  simp [memRead, windowHit_offset _ _ h4 h, hr]

/-- The state with its host agent replaced; the engine's own state is what it was. -/
def withHost (st : State) (h : HostAgent) : State := { st with host := h }

/-- Everything a host instruction can do: a write by `memWrite` from the advanced state, or a change of the host
alone (30 R108). -/
theorem hostExec_cases {i : HostInstr} {st t : State} (h : hostExec i st = .next t) :
    (∃ off v, memWrite (st.params.aesBase + off) 4 v (hostAdvance st) = .next t) ∨
      ∃ ag, t = withHost st ag := by
  cases i with
  | wrImm off imm => exact .inl ⟨off, imm, h⟩
  | wrReg off n => exact .inl ⟨off, _, h⟩
  | rd n off =>
    simp only [hostExec, hostRead] at h
    split at h
    · cases h; exact .inr ⟨_, rfl⟩
    · cases h
    · cases h
  | andi n m imm => cases h; exact .inr ⟨_, rfl⟩
  | bnez n l => cases h; exact .inr ⟨_, rfl⟩
  | beqz n l => cases h; exact .inr ⟨_, rfl⟩
  | halt => cases h; exact .inr ⟨_, rfl⟩

/-- Everything a turn can do: a sequencer step, a bus write that may first have advanced the host, a change of the
host or of `readData` alone, or a change of the reset input (20 R82; 70 R311). -/
theorem runTurn_cases {tn : Turn} {st t : State} (h : runTurn tn st = .next t) :
    (tn = .engine ∧ engineTurn st = .next t) ∨
      (∃ ag addr size v, memWrite addr size v (withHost st ag) = .next t) ∨
      (∃ ag d, t = { withHost st ag with readData := d }) ∨
      (tn = .assertReset ∧ t = assertReset st) ∨ (tn = .releaseReset ∧ t = releaseReset st) := by
  cases tn with
  | engine => exact .inl ⟨rfl, h⟩
  | host =>
    simp only [runTurn, hostTurn] at h
    split at h
    · cases h; exact .inr (.inr (.inl ⟨st.host, st.readData, rfl⟩))
    · split at h
      · cases h; exact .inr (.inr (.inl ⟨st.host, st.readData, rfl⟩))
      · obtain ⟨off, v, hw⟩ | ⟨ag, ht⟩ := hostExec_cases h
        · exact .inr (.inl ⟨_, _, _, v, hw⟩)
        · exact .inr (.inr (.inl ⟨ag, st.readData, ht⟩))
  | access a =>
    cases a with
    | write addr size v => exact .inr (.inl ⟨st.host, addr, size, v, h⟩)
    | read addr size =>
      simp only [runTurn, access] at h
      split at h
      · rename_i d hd
        cases h; exact .inr (.inr (.inl ⟨st.host, d, rfl⟩))
      · cases h
      · cases h
  | assertReset => cases h; exact .inr (.inr (.inr (.inl ⟨rfl, rfl⟩)))
  | releaseReset => cases h; exact .inr (.inr (.inr (.inr ⟨rfl, rfl⟩)))

/-- A step that answers a next state is its turn's, under a configuration a model may run. -/
theorem step_next {st t : State} (h : step st = .next t) :
    st.params.ok = true ∧ runTurn (nextTurn st).1 (nextTurn st).2 = .next t := by
  unfold step at h
  split at h
  · exact ⟨‹_›, h⟩
  · cases h

/-- With nothing scheduled, the driver's turn is the machine's own step (log 17). -/
theorem step_default {st : State} (hp : st.params.ok = true) (hs : st.schedule = []) :
    step st = runTurn (defaultTurn st) st := by
  simp [step, hp, nextTurn, hs]

/-! The driver: its sequencing, one turn of a program, and the instructions each call runs. -/

@[simp] theorem andThen_next {α β : Type} (x : α) (k : α → Host.Outcome β Fault Refusal) :
    andThen (.next x) k = k x := rfl

theorem runProgram_done (n : Nat) {st : State} (h : st.host.prog.length ≤ st.host.pc) :
    runProgram n st = .next st := by
  cases n with
  | zero => rfl
  | succ n => rw [runProgram, if_neg (Nat.not_lt.mpr h)]

theorem runProgram_more (n : Nat) {st : State} (h : st.host.pc < st.host.prog.length) :
    runProgram (n + 1) st = andThen (runTurn (defaultTurn st) st) (runProgram n) := if_pos h

/-- The instructions that load a block's words into four registers. -/
def loadInstrs (off : Fin 4 → Nat) (b : Block) : List HostInstr :=
  [.wrImm (off 0) (laneWord b 0), .wrImm (off 1) (laneWord b 1), .wrImm (off 2) (laneWord b 2),
    .wrImm (off 3) (laneWord b 3)]

/-- The instructions of `rddout`. -/
def rddoutInstrs : List HostInstr := [.rd 4 (offDout 0), .rd 5 (offDout 1), .rd 6 (offDout 2), .rd 7 (offDout 3)]

/-- The instructions of a command's write and its `wait`, from instruction 4 of a call on. -/
def commandInstrs (op : Word) (len : BitVec 8) : List HostInstr :=
  [.wrImm offCmd (commandWord op len), .rd 0 offStatus, .andi 1 0 0x1, .bnez 1 5]

theorem assemble_constructLines (len : BitVec 8) (k : Block) :
    assemble (constructLines len k) = some (loadInstrs offKey k ++ commandInstrs 0x1 len) := by
  unfold constructLines
  split
  · subst len; rfl
  · rfl

theorem assemble_blockLines_encrypt (len : BitVec 8) (b : Block) :
    assemble (blockLines .encrypt len b) =
      some (loadInstrs offDin b ++ commandInstrs 0x2 len ++ rddoutInstrs) := by
  simp only [blockLines]
  split
  · subst len; rfl
  · rfl

theorem assemble_blockLines_decrypt (len : BitVec 8) (b : Block) :
    assemble (blockLines .decrypt len b) =
      some (loadInstrs offDin b ++ commandInstrs 0x3 len ++ rddoutInstrs) := by
  simp only [blockLines]
  split
  · subst len; rfl
  · rfl

end Sys2Proof.Machine
end

