-- ==== Sys2Proof/Laws/PerInstr.lean ====
section
/-! SUPPORT. Per instruction: the four fields of its encoded word are the instruction's own (30 R100), one lemma
per constructor. -/

namespace Sys2Proof.Laws

theorem fieldOp_packCommand (op : BitVec 3) (rsv0 : BitVec 5) (len : BitVec 8) (rsv1 : BitVec 16) :
    fieldOp (packCommand op rsv0 len rsv1) = op := by
  apply BitVec.eq_of_getLsbD_eq
  intro k hk
  simp only [fieldOp, packCommand, BitVec.getLsbD_extractLsb', BitVec.getLsbD_append, hk, decide_true,
    Bool.true_and, Nat.zero_add, if_true]

theorem fieldRsv0_packCommand (op : BitVec 3) (rsv0 : BitVec 5) (len : BitVec 8) (rsv1 : BitVec 16) :
    fieldRsv0 (packCommand op rsv0 len rsv1) = rsv0 := by
  apply BitVec.eq_of_getLsbD_eq
  intro k hk
  simp only [fieldRsv0, packCommand, BitVec.getLsbD_extractLsb', BitVec.getLsbD_append, hk, decide_true,
    Bool.true_and, show ¬ (3 + k < 3) by omega, show 3 + k - 3 < 5 by omega, if_true, if_false]
  congr 1; omega

theorem fieldLen_packCommand (op : BitVec 3) (rsv0 : BitVec 5) (len : BitVec 8) (rsv1 : BitVec 16) :
    fieldLen (packCommand op rsv0 len rsv1) = len := by
  apply BitVec.eq_of_getLsbD_eq
  intro k hk
  simp only [fieldLen, packCommand, BitVec.getLsbD_extractLsb', BitVec.getLsbD_append, hk, decide_true,
    Bool.true_and, show ¬ (8 + k < 3) by omega, show ¬ (8 + k - 3 < 5) by omega,
    show 8 + k - 3 - 5 < 8 by omega, if_true, if_false]
  congr 1; omega

theorem fieldRsv1_packCommand (op : BitVec 3) (rsv0 : BitVec 5) (len : BitVec 8) (rsv1 : BitVec 16) :
    fieldRsv1 (packCommand op rsv0 len rsv1) = rsv1 := by
  apply BitVec.eq_of_getLsbD_eq
  intro k hk
  simp only [fieldRsv1, packCommand, BitVec.getLsbD_extractLsb', BitVec.getLsbD_append, hk, decide_true,
    Bool.true_and, show ¬ (16 + k < 3) by omega, show ¬ (16 + k - 3 < 5) by omega,
    show ¬ (16 + k - 3 - 5 < 8) by omega, if_false]
  congr 1; omega

/-- The fields OP, RSV0, LEN, RSV1 an instruction stands for (30 R100, R101). -/
def EncodedFields.fieldsOf : Instr → BitVec 3 × BitVec 5 × BitVec 8 × BitVec 16
  | .nop rsv0 len rsv1 => (0, rsv0, len, rsv1)
  | .illegalReservedOp op rsv0 len rsv1 => (op, rsv0, len, rsv1)
  | .keyExpand len => (1, 0, len, 0)
  | .encryptBlock len => (2, 0, len, 0)
  | .decryptBlock len => (3, 0, len, 0)
  | .illegalReservedBits op rsv0 len rsv1 => (op, rsv0, len, rsv1)

/-- No field of the instruction is lost or moved by its encoding. -/
def EncodedFields.Statement (i : Instr) : Prop :=
  (fieldOp (encode i), fieldRsv0 (encode i), fieldLen (encode i), fieldRsv1 (encode i)) =
    EncodedFields.fieldsOf i

theorem EncodedFields.ofPack (op : BitVec 3) (rsv0 : BitVec 5) (len : BitVec 8) (rsv1 : BitVec 16) :
    (fieldOp (packCommand op rsv0 len rsv1), fieldRsv0 (packCommand op rsv0 len rsv1),
      fieldLen (packCommand op rsv0 len rsv1), fieldRsv1 (packCommand op rsv0 len rsv1)) =
      (op, rsv0, len, rsv1) := by
  rw [fieldOp_packCommand, fieldRsv0_packCommand, fieldLen_packCommand, fieldRsv1_packCommand]

theorem EncodedFields.nop (rsv0 : BitVec 5) (len : BitVec 8) (rsv1 : BitVec 16) :
    EncodedFields.Statement (.nop rsv0 len rsv1) := EncodedFields.ofPack _ _ _ _

theorem EncodedFields.illegalReservedOp (op : BitVec 3) (rsv0 : BitVec 5) (len : BitVec 8) (rsv1 : BitVec 16) :
    EncodedFields.Statement (.illegalReservedOp op rsv0 len rsv1) := EncodedFields.ofPack _ _ _ _

theorem EncodedFields.keyExpand (len : BitVec 8) : EncodedFields.Statement (.keyExpand len) :=
  EncodedFields.ofPack _ _ _ _

theorem EncodedFields.encryptBlock (len : BitVec 8) : EncodedFields.Statement (.encryptBlock len) :=
  EncodedFields.ofPack _ _ _ _

theorem EncodedFields.decryptBlock (len : BitVec 8) : EncodedFields.Statement (.decryptBlock len) :=
  EncodedFields.ofPack _ _ _ _

theorem EncodedFields.illegalReservedBits (op : BitVec 3) (rsv0 : BitVec 5) (len : BitVec 8)
    (rsv1 : BitVec 16) : EncodedFields.Statement (.illegalReservedBits op rsv0 len rsv1) :=
  EncodedFields.ofPack _ _ _ _

end Sys2Proof.Laws
end

