-- ==== Sys2Proof/Tests/Slice0.lean ====
section
/-! SUPPORT. Tests of the model: ill-formed instructions refused, words of the spec's own tables decoded, single
steps with the spec's own results (95), and for each statement with hypotheses a state that meets them. -/

namespace Sys2Proof.Tests

open Sys2Proof Sys2Proof.Machine

/-! ### Well-formedness: what each check refuses -/

theorem test_wf_refuses_operation_as_reservedOp : (Instr.illegalReservedOp 3 0 16 0).wf = false := by decide
theorem test_wf_refuses_nop_as_reservedBits : (Instr.illegalReservedBits 0 1 16 0).wf = false := by decide
theorem test_wf_refuses_reservedOp_as_reservedBits : (Instr.illegalReservedBits 4 1 16 0).wf = false := by decide
theorem test_wf_refuses_reservedBits_all_zero : (Instr.illegalReservedBits 2 0 16 0).wf = false := by decide
theorem test_wf_accepts : (Instr.illegalReservedOp 4 0 16 0).wf = true ∧
    (Instr.illegalReservedBits 3 0 16 0x8000).wf = true ∧ (Instr.illegalReservedBits 1 1 0 0).wf = true := by decide

/-! ### Decoding (95 section 6.1): the word is written field by field, RSV1 LEN RSV0 OP -/

theorem test_decode_nop :
    decode 0b1111111111111111_11111111_11111_000 = .nop 31 255 0xffff ∧
      decode 0b0000000000000000_00010000_00000_000 = .nop 0 16 0 := by decide
theorem test_decode_keyExpand :
    decode 0b0000000000000000_00010000_00000_001 = .keyExpand 16 ∧
      decode 0b0000000000000000_00011000_00000_001 = .keyExpand 24 := by decide
theorem test_decode_encryptBlock :
    decode 0b0000000000000000_00010000_00000_010 = .encryptBlock 16 ∧
      decode 0b0000000000000000_00001111_00000_010 = .encryptBlock 15 := by decide
theorem test_decode_decryptBlock :
    decode 0b0000000000000000_00010000_00000_011 = .decryptBlock 16 ∧
      decode 0b0000000000000000_11111111_00000_011 = .decryptBlock 255 := by decide
theorem test_decode_illegalReservedOp :
    decode 0b0000000000000000_00010000_00000_100 = .illegalReservedOp 4 0 16 0 ∧
      decode 0b0000000000000001_00010000_00001_100 = .illegalReservedOp 4 1 16 1 ∧
      decode 0b1111111111111111_11111111_11111_111 = .illegalReservedOp 7 31 255 0xffff := by decide
theorem test_decode_illegalReservedBits :
    decode 0b0000000000000000_00010000_10000_001 = .illegalReservedBits 1 16 16 0 ∧
      decode 0b1000000000000000_00010000_00000_010 = .illegalReservedBits 2 0 16 0x8000 := by decide
theorem test_encode : encode (.keyExpand 16) = 0x00001001 ∧ encode (.encryptBlock 16) = 0x00001002 ∧
    encode (.decryptBlock 16) = 0x00001003 ∧ encode (.nop 31 255 0xffff) = 0xfffffff8 ∧
    encode (.illegalReservedOp 4 1 16 1) = 0x0001100c ∧ encode (.illegalReservedBits 1 0 16 1) = 0x00011001 := by
  decide
theorem test_decodeTableWord : decodeTableWord 32 0x1001 = some (.keyExpand 16) ∧
    decodeTableWord 32 0x80001002 = some (.illegalReservedBits 2 0 16 0x8000) ∧ decodeTableWord 40 0x1001 = none := by
  decide

/-! ### States -/

/-- A key of the spec, K1 = 000102...0f (95 section 1). -/
def keyK1 : Block := Vector.ofFn fun (k : Fin 16) => BitVec.ofNat 8 k.val

/-- The block 00112233445566778899aabbccddeeff (95 section 2). -/
def blockC1 : Block := Vector.ofFn fun (k : Fin 16) => BitVec.ofNat 8 (17 * k.val)

/-- State B of 95 section 6.2: after `construct K1`, with DIN loaded. -/
def stateB : State :=
  { State.reset with key := keyK1, din := blockC1, w := keyExpansion keyK1, keyValid := true, done := true }

/-- State E of 95 section 6.2: state B after a command rejected with INVALID_BLOCK_LENGTH. -/
def stateE : State := { stateB with done := false, err := 2 }

/-- State B with ENCRYPT_BLOCK issued. -/
def runEnc : State := startEnc stateB
/-- State B with DECRYPT_BLOCK issued. -/
def runDec : State := startDec stateB
/-- State B with KEY_EXPAND issued. -/
def runKey : State := startKeyExp stateB

/-- The last step of an encryption, of a decryption and of an expansion is still to come. -/
def lastEnc : State := { runEnc with rnd := 10, s := encAfter stateB.w stateB.din 9 }
def lastDec : State := { runDec with rnd := 0, s := decAfter stateB.w stateB.din 9 }
def lastKey : State := { runKey with rnd := 43, w := keyExpansion keyK1 }

/-- Reset is asserted. -/
def inReset : State := assertReset stateB

/-- The next turn is the host's write of a word at an offset of the window. -/
def writeNext (off : Nat) (v : Word) (st : State) : State := { st with schedule := [.access (.write off 4 v)] }

/-- The host is at the `wait` loop. -/
def atWait (st : State) : State :=
  { st with host := { st.host with prog := [.rd 0 0x04, .andi 1 0 0x1, .bnez 1 0] } }

/-- STATUS after a command word, if the write answers a next state. -/
def statusAfter (v : Word) (st : State) : Option Word :=
  match step (writeNext 0 v st) with
  | .next t => some t.statusWord
  | .fault _ => none
  | .refused _ => none

/-! ### Single steps (95 sections 6.2, 6.3 and 6.4) -/

theorem test_nop : statusAfter 0x00000000 stateB = some 0x00000006 ∧
    statusAfter 0xabcdef00 stateE = some 0x00000204 := by decide
theorem test_nop_busy : statusAfter 0x00000000 runEnc = some 0x0000000d := by decide
theorem test_keyExpand : statusAfter 0x00001001 State.reset = some 0x00000001 ∧
    statusAfter 0x00001001 stateB = some 0x00000001 := by decide
theorem test_keyExpand_rejected : statusAfter 0x00000f01 State.reset = some 0x00000100 ∧
    statusAfter 0x00001801 stateB = some 0x00000104 := by decide
theorem test_encryptBlock : statusAfter 0x00001002 stateB = some 0x00000005 ∧
    statusAfter 0x00001002 stateE = some 0x00000005 := by decide
theorem test_encryptBlock_rejected : statusAfter 0x00000002 State.reset = some 0x00000300 ∧
    statusAfter 0x00001102 stateB = some 0x00000204 := by decide
theorem test_decryptBlock : statusAfter 0x00001003 stateB = some 0x00000005 ∧
    statusAfter 0x00001003 runEnc = some 0x0000000d := by decide
theorem test_decryptBlock_rejected : statusAfter 0x00001003 State.reset = some 0x00000300 ∧
    statusAfter 0x0000ff03 stateB = some 0x00000204 := by decide
theorem test_illegalReservedOp : statusAfter 0x00001004 State.reset = some 0x00000400 ∧
    statusAfter 0x00001005 stateE = some 0x00000404 := by decide
theorem test_illegalReservedOp_busy : statusAfter 0x00001004 runEnc = some 0x0000000d := by decide
theorem test_illegalReservedBits : statusAfter 0x00011001 State.reset = some 0x00000400 ∧
    statusAfter 0x80001003 stateB = some 0x00000404 := by decide
theorem test_reads : memRead stateB 0x04 4 = .data 0x00000006 ∧ memRead stateB 0x20 4 = .data 0x00112233 ∧
    memRead stateB 0x2c 4 = .data 0xccddeeff ∧ memRead stateB 0x10 4 = .data 0 := by decide
theorem test_busErrors : memRead stateB 0x30 8 = .fault (.busError 0x30 8) ∧
    memRead stateB 0x06 4 = .fault (.busError 0x06 4) := by decide

/-- One KEYEXP step writes W[4] = d6aa74fd (95 section 8.1). -/
theorem test_keyExp_word4 : nextWord (loadKeyWords Schedule.zero keyK1) 4 = #v[0xd6, 0xaa, 0x74, 0xfd] := by decide
/-- The column db 13 53 45 mixes to 8e 4d a1 bc (95 section 4). -/
theorem test_mixColumn : (List.finRange 4).map (mixColumn 0xdb 0x13 0x53 0x45) = [0x8e, 0x4d, 0xa1, 0xbc] := by
  decide
theorem test_gmul : gmul 0x57 0x83 = 0xc1 ∧ gmul 0x57 0x13 = 0xfe := by decide

/-! The transforms and the cipher on the C.1 block (95 sections 5.1 and 2). -/

theorem test_subBytes : toBytes (subBytes (toState blockC1)) =
    #v[0x63, 0x82, 0x93, 0xc3, 0x1b, 0xfc, 0x33, 0xf5, 0xc4, 0xee, 0xac, 0xea, 0x4b, 0xc1, 0x28, 0x16] := by
  decide
theorem test_invSubBytes : toBytes (invSubBytes (toState blockC1)) =
    #v[0x52, 0xe3, 0x94, 0x66, 0x86, 0xed, 0xd3, 0x02, 0x97, 0xf9, 0x62, 0xfe, 0x27, 0xc9, 0x99, 0x7d] := by
  decide
theorem test_shiftRows : toBytes (shiftRows (toState blockC1)) =
    #v[0x00, 0x55, 0xaa, 0xff, 0x44, 0x99, 0xee, 0x33, 0x88, 0xdd, 0x22, 0x77, 0xcc, 0x11, 0x66, 0xbb] := by
  decide
theorem test_invShiftRows : toBytes (invShiftRows (toState blockC1)) =
    #v[0x00, 0xdd, 0xaa, 0x77, 0x44, 0x11, 0xee, 0xbb, 0x88, 0x55, 0x22, 0xff, 0xcc, 0x99, 0x66, 0x33] := by
  decide
theorem test_mixColumns : toBytes (mixColumns (toState blockC1)) =
    #v[0x22, 0x77, 0x00, 0x55, 0x66, 0x33, 0x44, 0x11, 0xaa, 0xff, 0x88, 0xdd, 0xee, 0xbb, 0xcc, 0x99] := by
  decide
theorem test_invMixColumns : toBytes (invMixColumns (toState blockC1)) =
    #v[0xaa, 0xff, 0x88, 0xdd, 0xee, 0xbb, 0xcc, 0x99, 0x22, 0x77, 0x00, 0x55, 0x66, 0x33, 0x44, 0x11] := by
  decide
theorem test_addRoundKey : toBytes (addRoundKey (loadKeyWords Schedule.zero keyK1) (toState blockC1) 0) =
    #v[0x00, 0x10, 0x20, 0x30, 0x40, 0x50, 0x60, 0x70, 0x80, 0x90, 0xa0, 0xb0, 0xc0, 0xd0, 0xe0, 0xf0] := by
  decide

set_option maxRecDepth 100000 in
theorem test_cipher : cipher blockC1 (keyExpansion keyK1) =
    #v[0x69, 0xc4, 0xe0, 0xd8, 0x6a, 0x7b, 0x04, 0x30, 0xd8, 0xcd, 0xb7, 0x80, 0x70, 0xb4, 0xc5, 0x5a] := by
  decide

/-! The word of each row runs as the first thing after reset (log 2). -/

theorem test_first_nop : step (State.reset.withFetchWord 32 0x00000000) = exec (.nop 0 0 0) State.reset := rfl
theorem test_first_keyExpand : step (State.reset.withFetchWord 32 0x00001001) = exec (.keyExpand 16) State.reset := rfl
theorem test_first_encryptBlock :
    step (State.reset.withFetchWord 32 0x00001002) = exec (.encryptBlock 16) State.reset := rfl
theorem test_first_decryptBlock :
    step (State.reset.withFetchWord 32 0x00001003) = exec (.decryptBlock 16) State.reset := rfl
theorem test_first_illegalReservedOp :
    step (State.reset.withFetchWord 32 0x00001004) = exec (.illegalReservedOp 4 0 16 0) State.reset := rfl
theorem test_first_illegalReservedBits :
    step (State.reset.withFetchWord 32 0x00001009) = exec (.illegalReservedBits 1 1 16 0) State.reset := rfl

/-! ### States that meet the hypotheses of the statements, each clause at a boundary -/

theorem stateB_inv : stateB.Inv where
  err_legal := by decide
  drop_err := by decide
  done_err := by decide
  busy_status h := absurd rfl h
  keyexp h := nomatch h
  enc h := nomatch h
  dec h := nomatch h
  key_valid _ := ⟨keyK1, rfl⟩
  in_reset h := nomatch h

theorem runEnc_inv : runEnc.Inv where
  err_legal := by decide
  drop_err := by decide
  done_err := by decide
  busy_status _ := ⟨rfl, rfl⟩
  keyexp h := nomatch h
  enc _ := ⟨by decide, by decide, rfl, rfl⟩
  dec h := nomatch h
  key_valid _ := ⟨keyK1, rfl⟩
  in_reset h := nomatch h

theorem lastEnc_inv : lastEnc.Inv where
  err_legal := by decide
  drop_err := by decide
  done_err := by decide
  busy_status _ := ⟨rfl, rfl⟩
  keyexp h := nomatch h
  enc _ := ⟨by decide, by decide, rfl, rfl⟩
  dec h := nomatch h
  key_valid _ := ⟨keyK1, rfl⟩
  in_reset h := nomatch h

theorem lastDec_inv : lastDec.Inv where
  err_legal := by decide
  drop_err := by decide
  done_err := by decide
  busy_status _ := ⟨rfl, rfl⟩
  keyexp h := nomatch h
  enc h := nomatch h
  dec _ := ⟨by decide, rfl, rfl⟩
  key_valid _ := ⟨keyK1, rfl⟩
  in_reset h := nomatch h

theorem lastKey_inv : lastKey.Inv where
  err_legal := by decide
  drop_err := by decide
  done_err := by decide
  busy_status _ := ⟨rfl, rfl⟩
  keyexp _ := ⟨by decide, by decide, rfl, fun _ _ => rfl⟩
  enc h := nomatch h
  dec h := nomatch h
  key_valid h := nomatch h
  in_reset h := nomatch h

theorem witness_DecodeEncodeRoundTrip : (Instr.nop 31 255 0xffff).wf = true ∧ (Instr.keyExpand 255).wf = true ∧
    (Instr.encryptBlock 0).wf = true ∧ (Instr.decryptBlock 16).wf = true ∧
    (Instr.illegalReservedOp 7 31 255 0xffff).wf = true ∧ (Instr.illegalReservedBits 3 0 0 1).wf = true := by decide

theorem witness_DecoderFollowsItsChecks :
    (0xfffffff8 : Word).toNat % 8 = 0 ∧ (0x4 : Word).toNat / 4 % 2 = 1 ∧ (0xffffffff : Word).toNat / 4 % 2 = 1 ∧
    (0x9 : Word).toNat / 8 % 32 ≠ 0 ∧ (0x80000003 : Word).toNat / 65536 ≠ 0 ∧
    ((0xff01 : Word).toNat / 8 % 32 = 0 ∧ (0xff01 : Word).toNat / 65536 = 0 ∧ (0xff01 : Word).toNat % 8 = 1) ∧
    (0x2 : Word).toNat % 8 = 2 ∧ (0x1003 : Word).toNat % 8 = 3 := by decide

theorem witness_NopChangesNothing :
    stateB.busy = false ∧ runEnc.busy = true ∧ (0xfffffff8 : Word).toNat % 8 = 0 := by decide

theorem witness_IllegalWordIsReported : stateB.busy = false ∧ runKey.busy = true ∧
    (0x4 : Word).toNat / 4 % 2 = 1 ∧
    (1 ≤ (0x9 : Word).toNat % 8 ∧ (0x9 : Word).toNat % 8 ≤ 3 ∧ (0x9 : Word).toNat / 8 % 32 ≠ 0) ∧
    (1 ≤ (0x80000003 : Word).toNat % 8 ∧ (0x80000003 : Word).toNat % 8 ≤ 3 ∧
      (0x80000003 : Word).toNat / 65536 ≠ 0) := by decide

theorem witness_IssueFollowsItsCases :
    (State.reset.busy = false ∧ State.reset.resetIn = false ∧ State.reset.keyValid = false) ∧
    (stateB.busy = false ∧ stateB.resetIn = false ∧ stateB.keyValid = true) ∧ runDec.busy = true := by decide

theorem witness_KeyExpandAccepted : State.reset.busy = false ∧ stateB.busy = false := by decide

theorem witness_EncryptBlockAccepted : stateB.busy = false ∧ stateB.keyValid = true := by decide

theorem witness_DecryptBlockAccepted : stateE.busy = false ∧ stateE.keyValid = true := by decide

theorem witness_WrongLengthOrNoKeyIsReported :
    (State.reset.busy = false ∧ State.reset.keyValid = false) ∧ (stateB.busy = false ∧ stateB.keyValid = true) ∧
    (15 : BitVec 8).toNat ≠ 16 ∧ (17 : BitVec 8).toNat ≠ 16 ∧ (0 : BitVec 8).toNat ≠ 16 := by decide

theorem witness_IssueReportsFirstFailingCheck :
    stateB.busy = false ∧ (0x1 : Word).toNat % 8 ≠ 0 ∧ (0xffffffff : Word).toNat % 8 ≠ 0 := by decide

theorem witness_RejectedIssueChangesOnlyStatus :
    ∃ t, stateB.busy = false ∧ exec (.encryptBlock 15) stateB = .next t ∧ t.err ≠ 0 :=
  ⟨_, rfl, rfl, by decide⟩

theorem witness_BusyWritesAreDropped : runEnc.busy = true ∧ runEnc.resetIn = false ∧
    (0x00 % 4 = 0 ∧ 0x0c % 4 = 0 ∧ 0x10 % 4 = 0 ∧ 0x2c % 4 = 0 ∧ 0x30 % 4 = 0 ∧ 0x3c < 64) := by decide

theorem witness_RegisterWrites : stateB.resetIn = false ∧ stateB.busy = false ∧ runEnc.resetIn = false ∧
    runEnc.busy = true := by decide

theorem witness_RegisterReads : stateB.resetIn = false ∧ runEnc.resetIn = false := by decide

theorem witness_WindowAccessFaults :
    (stateB.resetIn = false ∧ stateB.params.aesBase ≤ 63 ∧ 63 < stateB.params.aesBase + 64 ∧
      (63 - stateB.params.aesBase) % 4 ≠ 0) ∧
    (stateB.params.aesBase ≤ 0 ∧ 8 ≠ 4) ∧ (inReset.resetIn = true ∧ inReset.params.aesBase ≤ 0x3c) := by decide

theorem witness_ReadsHideTheSecrets :
    sameWindow stateB { stateB with key := Block.zero, w := Schedule.zero, rnd := 5 } ∧ keyK1 ≠ Block.zero :=
  ⟨⟨rfl, rfl, rfl, rfl, rfl, rfl, rfl, rfl, rfl⟩, by decide⟩

theorem witness_KeyExpStep :
    (runKey.seq = .keyexp ∧ runKey.rnd.toNat = 4) ∧ (lastKey.seq = .keyexp ∧ lastKey.rnd.toNat = 43) := by decide

theorem witness_BlockSteps :
    (runEnc.seq = .enc ∧ runEnc.rnd.toNat = 1) ∧ (lastEnc.seq = .enc ∧ lastEnc.rnd.toNat = 10) ∧
    (runDec.seq = .dec ∧ runDec.rnd.toNat = 9) ∧ (lastDec.seq = .dec ∧ lastDec.rnd.toNat = 0) := by decide

theorem witness_CompletionIsOneStep :
    (∃ t, runKey.seq ≠ .idle ∧ engineStep runKey = .next t ∧ t.seq ≠ .idle) ∧
    (∃ t, lastKey.seq = .keyexp ∧ engineStep lastKey = .next t ∧ t.seq = .idle) ∧
    ∃ t, lastEnc.seq ≠ .keyexp ∧ engineStep lastEnc = .next t ∧ t.seq = .idle :=
  ⟨⟨_, by decide, rfl, by decide⟩, ⟨_, rfl, rfl, rfl⟩, ⟨_, by decide, rfl, rfl⟩⟩

theorem witness_EngineStepFrame : stateB.seq = .idle ∧ ∃ t, engineStep runDec = .next t := ⟨rfl, _, rfl⟩

theorem witness_KeyExpansionRecurrence : 3 < 4 ∧ (4 ≤ 4 ∧ 4 ≤ 43 ∧ 4 % 4 = 0) ∧ (4 ≤ 43 ∧ 43 % 4 ≠ 0) := by decide

theorem witness_KeyExpandComputesSchedule : stateB.params.ok = true ∧ stateB.resetIn = false ∧
    stateB.busy = false ∧ stateB.schedule = [] := by decide

theorem witness_EncryptComputesCipher : stateB.params.ok = true ∧ stateB.resetIn = false ∧
    stateB.busy = false ∧ stateB.schedule = [] ∧ stateB.keyValid = true := by decide

theorem witness_DecryptComputesInvCipher : stateE.params.ok = true ∧ stateE.resetIn = false ∧
    stateE.busy = false ∧ stateE.schedule = [] ∧ stateE.keyValid = true := by decide

theorem witness_MixColumnsIsLinear : ∀ r, cell (mkMatrix fun _ _ => 0xc6) r 3 = 0xc6 := by decide

theorem witness_GmulFieldLaws : (0x53 : Byte) ≠ 0 ∧ (0x01 : Byte) ≠ 0 := by decide

theorem witness_TablesAreAsMade : 0 < 9 ∧ 8 < 9 := by decide

theorem witness_SboxIsAffineOfInverse : gmul 0x53 0xca = 1 ∧ 0 < 8 ∧ 7 < 8 := by decide

theorem witness_StepKeepsInvariant :
    (∃ t, stateB.Inv ∧ step stateB = .next t) ∧ (∃ t, lastKey.Inv ∧ step lastKey = .next t) ∧
    (∃ t, lastEnc.Inv ∧ step lastEnc = .next t) ∧ ∃ t, lastDec.Inv ∧ step lastDec = .next t :=
  ⟨⟨_, stateB_inv, rfl⟩, ⟨_, lastKey_inv, rfl⟩, ⟨_, lastEnc_inv, rfl⟩, ⟨_, lastDec_inv, rfl⟩⟩

theorem witness_ResetValues : stateB.params.ok = true ∧
    { runEnc with schedule := [.assertReset] }.schedule = .assertReset :: [] ∧
    { inReset with schedule := [.releaseReset] }.schedule = .releaseReset :: [] ∧ inReset.resetIn = true ∧
    { runDec with schedule := [.assertReset, .releaseReset] }.schedule = .assertReset :: .releaseReset :: [] ∧
    15 < 16 ∧ 43 < 44 := by decide

theorem witness_StepRunsTheDecodedCommand : stateB.params.ok = true ∧ stateB.resetIn = false ∧
    (writeNext 0 0x1002 stateB).schedule = .access (.write stateB.params.aesBase 4 0x1002) :: [] ∧
    { stateB with schedule := [.host] }.schedule = .host :: [] ∧
    (loadProgram [.wrImm 0x00 0x1002] stateB).host.halted = false ∧
    (loadProgram [.wrImm 0x00 0x1002] stateB).host.prog[0]? = some (.wrImm 0x00 0x1002) := by decide

theorem witness_DropChangesOnlyAsStated :
    (∃ t, step (writeNext 0x2c 5 runEnc) = .next t ∧ t.drop = true ∧ runEnc.drop = false ∧
      (writeNext 0x2c 5 runEnc).writes 0x2c 5) ∧
    (∃ t, step (writeNext 0 0x1003 { stateB with drop := true }) = .next t ∧ t.drop = false ∧
      (writeNext 0 0x1003 { stateB with drop := true }).issues 0x1003) ∧
    { stateB with schedule := [.assertReset] }.turn = .assertReset :=
  ⟨⟨_, rfl, rfl, rfl, rfl⟩, ⟨_, rfl, rfl, rfl, rfl, by decide⟩, rfl⟩

theorem witness_ErrChangesOnlyAsStated :
    (∃ t, step (writeNext 0 0x0f02 stateB) = .next t ∧ t.err ≠ stateB.err ∧
      (writeNext 0 0x0f02 stateB).issues 0x0f02) ∧
    (∃ t, step (writeNext 0 0x1002 stateE) = .next t ∧ t.busy = true ∧ (writeNext 0 0x1002 stateE).issues 0x1002) ∧
    { stateE with schedule := [.assertReset] }.turn = .assertReset :=
  ⟨⟨_, rfl, by decide, rfl, rfl, by decide⟩, ⟨_, rfl, rfl, rfl, rfl, by decide⟩, rfl⟩

theorem witness_KeyValidChangesOnlyAsStated :
    (∃ t, step lastKey = .next t ∧ t.keyValid = true ∧ lastKey.keyValid = false) ∧
    ∃ t, step (writeNext 0 0x1001 stateB) = .next t ∧ t.keyValid = false ∧ stateB.keyValid = true :=
  ⟨⟨_, rfl, rfl, rfl⟩, ⟨_, rfl, rfl, rfl⟩⟩

theorem witness_InputsChangeOnlyByIdleWrites :
    (∃ t, step (writeNext 0x1c 5 stateB) = .next t ∧ t.key.getD 15 0 = 5 ∧ stateB.key.getD 15 0 ≠ 5) ∧
    ∃ t, step (writeNext 0x20 5 stateB) = .next t ∧ t.din.getD 3 0 = 5 ∧ stateB.din.getD 3 0 ≠ 5 :=
  ⟨⟨_, rfl, by decide, by decide⟩, ⟨_, rfl, by decide, by decide⟩⟩

theorem witness_ResultsChangeOnlyAsStated :
    (∃ t, step (writeNext 0 0x1001 { stateB with w := Schedule.zero }) = .next t ∧
      wordByte (schedWord t.w 3) 3 = 0x0f) ∧
    ∃ t, step lastEnc = .next t ∧ t.seq = .idle :=
  ⟨⟨_, rfl, by decide⟩, ⟨_, rfl, rfl⟩⟩

theorem witness_AcceptedCommandNeverFails : lastKey.Inv ∧ lastKey.busy = true ∧ lastEnc.Inv ∧ lastDec.Inv :=
  ⟨lastKey_inv, rfl, lastEnc_inv, lastDec_inv⟩

theorem witness_OnlyTheHostCausesStops : (stateB.Inv ∧ runEnc.Inv) ∧ 0x20 % 0x40 ≠ 0 ∧ 2 ^ 6 < 0x40 + 64 ∧
    resetParams.ok = true ∧ { resetParams with aesBase := 0x40, busAw := 7 }.ok = true := by
  exact ⟨⟨stateB_inv, runEnc_inv⟩, by decide, by decide, by decide, by decide⟩

theorem witness_BlockCompletionPublishesResult :
    (∃ t, lastEnc.Inv ∧ step lastEnc = .next t ∧ lastEnc.turn ≠ .assertReset ∧ t.seq = .idle ∧ lastEnc.seq = .enc) ∧
    (∃ t, lastDec.Inv ∧ step lastDec = .next t ∧ lastDec.turn ≠ .assertReset ∧ t.seq = .idle ∧ lastDec.seq = .dec) ∧
    ∃ t, lastKey.Inv ∧ step lastKey = .next t ∧ lastKey.turn ≠ .assertReset ∧ t.seq = .idle ∧
      lastKey.seq = .keyexp :=
  ⟨⟨_, lastEnc_inv, rfl, by decide, rfl, rfl⟩, ⟨_, lastDec_inv, rfl, by decide, rfl, rfl⟩,
    ⟨_, lastKey_inv, rfl, by decide, rfl, rfl⟩⟩

theorem witness_RunningCommandInputsAreStable :
    (∃ t, runEnc.busy = true ∧ step runEnc = .next t ∧ runEnc.turn ≠ .assertReset ∧ runEnc.seq ≠ .keyexp ∧
      t.busy = true) ∧
    ∃ t, step (writeNext 0x10 5 runKey) = .next t ∧ runKey.busy = true ∧ t.busy = true :=
  ⟨⟨_, rfl, rfl, by decide, by decide, rfl⟩, ⟨_, rfl, rfl, rfl⟩⟩

theorem witness_RunningCommandEnds : runEnc.Inv ∧ runEnc.params.ok = true ∧ runEnc.busy = true ∧
    runEnc.schedule = [] := ⟨runEnc_inv, by decide, rfl, rfl⟩

theorem witness_CompletionTieBothOrders : ∃ c, lastEnc.params.ok = true ∧ lastEnc.resetIn = false ∧
    lastEnc.busy = true ∧ engineStep { lastEnc with schedule := [] } = .next c ∧ c.busy = false :=
  ⟨_, by decide, rfl, rfl, rfl, rfl⟩

theorem witness_ParametersAndHostAreOutside : ∃ t, step runEnc = .next t ∧ runEnc.turn ≠ .host :=
  ⟨_, rfl, by decide⟩

theorem witness_HostInstructions : ∃ v, memRead stateB (stateB.params.aesBase + 0x3c) 4 = .data v := ⟨_, rfl⟩

theorem atWait_inv {st : State} (h : st.Inv) (hr : st.resetIn = false) : (atWait st).Inv :=
  ⟨h.err_legal, h.drop_err, h.done_err, h.busy_status, h.keyexp, h.enc, h.dec, h.key_valid,
    fun hx => absurd (hx.symm.trans hr) (by decide)⟩

theorem witness_WaitLoopEnds : (atWait runEnc).Inv ∧ (atWait runEnc).params.ok = true ∧
    (atWait runEnc).resetIn = false ∧ (atWait runEnc).schedule = [] ∧ (atWait runEnc).host.halted = false ∧
    (atWait runEnc).host.pc = 0 ∧ (atWait runEnc).host.prog[0]? = some (.rd 0 0x04) ∧
    (atWait runEnc).host.prog[1]? = some (.andi 1 0 0x1) ∧ (atWait runEnc).host.prog[2]? = some (.bnez 1 0) :=
  ⟨atWait_inv runEnc_inv rfl, by decide, rfl, rfl, rfl, rfl, rfl, rfl, rfl⟩

theorem witness_MessageDecryptChecks :
    ([] : List Byte).length = 0 ∧ (List.replicate 15 (0 : Byte)).length % 16 ≠ 0 ∧
    ((List.replicate 16 (0 : Byte)).length ≠ 0 ∧ (List.replicate 16 (0 : Byte)).length % 16 = 0) := by decide

set_option maxRecDepth 40000 in
/-- Under the zero schedule: a block that deciphers to sixteen bytes of 0x10, which are all padding. -/
theorem witness_paddingAccepted : messageDecrypt Schedule.zero (List.replicate 16 0xf3) = .ok [] := rfl

set_option maxRecDepth 40000 in
/-- A final byte 0, and a final byte 17. -/
theorem witness_paddingRejected :
    invCipher (blockOf (List.replicate 16 0x36)) Schedule.zero = Vector.replicate 16 0 ∧
    invCipher (blockOf (List.replicate 16 0xf8)) Schedule.zero = Vector.replicate 16 17 := ⟨rfl, rfl⟩

set_option maxRecDepth 100000 in
/-- A final byte 3 after 0c and 02 (95 section 7.2). -/
theorem witness_paddingMismatch :
    invCipher #v[0xf6, 0x9e, 0x42, 0x89, 0x26, 0xcb, 0x43, 0xeb, 0x34, 0x2c, 0x8f, 0x6e, 0x05, 0xb5, 0x4c, 0x73]
        (keyExpansion keyK1) =
    #v[0x00, 0x01, 0x02, 0x03, 0x04, 0x05, 0x06, 0x07, 0x08, 0x09, 0x0a, 0x0b, 0x0c, 0x0c, 0x02, 0x03] := by
  decide

theorem witness_DriverEncryptsMessages :
    (stateB.params.ok = true ∧ stateB.resetIn = false ∧ stateB.busy = false ∧ stateB.keyValid = true) ∧
    (State.reset.params.ok = true ∧ State.reset.resetIn = false ∧ State.reset.busy = false ∧
      State.reset.keyValid = false) := by decide

set_option maxRecDepth 40000 in
/-- With a key: a message the driver can return; without one: lengths that pass the first check and one that does
not. -/
theorem witness_DriverDecryptsMessages :
    (stateB.params.ok = true ∧ stateB.resetIn = false ∧ stateB.busy = false ∧ stateB.keyValid = true) ∧
    (State.reset.params.ok = true ∧ State.reset.resetIn = false ∧ State.reset.busy = false ∧
      State.reset.keyValid = false) ∧
    messageDecrypt { stateB with w := Schedule.zero }.w (List.replicate 16 0xf3) = .ok [] ∧
    (List.replicate 16 (0xf3 : Byte)).length ≠ 0 ∧ (List.replicate 16 (0xf3 : Byte)).length % 16 = 0 ∧
    (List.replicate 15 (0xf3 : Byte)).length % 16 ≠ 0 ∧ ([] : List Byte).length = 0 :=
  ⟨by decide, by decide, rfl, by decide, by decide, by decide, rfl⟩

theorem witness_DriverConstructs : stateB.params.ok = true ∧ stateB.resetIn = false ∧ stateB.busy = false ∧
    (15 : BitVec 8) ≠ 16 ∧ (17 : BitVec 8) ≠ 16 ∧ stateB.keyValid = true ∧ State.reset.keyValid = false ∧
    State.reset.params.ok = true ∧ State.reset.resetIn = false ∧ State.reset.busy = false := by decide

theorem witness_DoneChangesOnlyAsStated :
    (∃ t, step lastKey = .next t ∧ t.done = true ∧ lastKey.done = false ∧ lastKey.turn = .engine ∧
      lastKey.seq ≠ .idle ∧ t.seq = .idle) ∧
    (∃ t, step (writeNext 0 0x0005 stateB) = .next t ∧ t.done = false ∧ stateB.done = true ∧
      (writeNext 0 0x0005 stateB).issues 0x0005) ∧
    { stateB with schedule := [.assertReset] }.turn = .assertReset :=
  ⟨⟨_, rfl, rfl, rfl, rfl, by decide, rfl⟩, ⟨_, rfl, rfl, rfl, rfl, rfl, by decide⟩, rfl⟩

/-! ### The driver (30 R109; 45 R260): the expansion runs to its end on the host's registers before the check -/

/-- After reset, with DOUT's last word set so that `rddout` shows: NO_KEY, t0 = 0x00000300, and t7 read all the same
(95 section 6.2, state A). -/
theorem test_driveBlock_noKey :
    (match driveBlock .encrypt 16 blockC1 { State.reset with dout := blockC1 } with
      | .next (t, .error e) => e == .command 3 && t.host.t[0] == 0x00000300 && t.host.t[7] == 0xccddeeff &&
          t.din == blockC1
      | _ => false) = true := by decide

end Sys2Proof.Tests
end

section
/-! The facts under the statements of 10_state: what a step can do, told by the write its turn makes; the register an
offset selects; and the issue of a command word as the check order of 60 R283. -/

namespace Sys2Proof.Machine

/-! ### The state a write meets: the host advanced, the turn taken off the schedule -/

@[simp] theorem withHost_done (st : State) (h : HostAgent) : (withHost st h).done = st.done := rfl
@[simp] theorem withHost_keyValid (st : State) (h : HostAgent) : (withHost st h).keyValid = st.keyValid := rfl
@[simp] theorem withHost_drop (st : State) (h : HostAgent) : (withHost st h).drop = st.drop := rfl
@[simp] theorem withHost_err (st : State) (h : HostAgent) : (withHost st h).err = st.err := rfl
@[simp] theorem withHost_key (st : State) (h : HostAgent) : (withHost st h).key = st.key := rfl
@[simp] theorem withHost_din (st : State) (h : HostAgent) : (withHost st h).din = st.din := rfl
@[simp] theorem withHost_dout (st : State) (h : HostAgent) : (withHost st h).dout = st.dout := rfl
@[simp] theorem withHost_w (st : State) (h : HostAgent) : (withHost st h).w = st.w := rfl
@[simp] theorem withHost_s (st : State) (h : HostAgent) : (withHost st h).s = st.s := rfl
@[simp] theorem withHost_seq (st : State) (h : HostAgent) : (withHost st h).seq = st.seq := rfl
@[simp] theorem withHost_rnd (st : State) (h : HostAgent) : (withHost st h).rnd = st.rnd := rfl
@[simp] theorem withHost_resetIn (st : State) (h : HostAgent) : (withHost st h).resetIn = st.resetIn := rfl
@[simp] theorem withHost_host (st : State) (h : HostAgent) : (withHost st h).host = h := rfl
@[simp] theorem withHost_params (st : State) (h : HostAgent) : (withHost st h).params = st.params := rfl
@[simp] theorem withHost_busy (st : State) (h : HostAgent) : (withHost st h).busy = st.busy := rfl

@[simp] theorem nextTurn_busy (st : State) : (nextTurn st).2.busy = st.busy := by simp [busy_eq]

/-! ### The register an offset selects (10 R30) -/

theorem windowReg_eq_cmd_iff (off : Nat) (h4 : off % 4 = 0) (h : off < 64) :
    windowReg (BitVec.ofNat 6 off) = .cmd ↔ off = 0 := by
  simp only [windowReg, BitVec.toNat_ofNat]
  split_ifs <;> simp <;> omega

theorem windowReg_eq_key_iff (off : Nat) (h : off < 64) :
    (∃ j, windowReg (BitVec.ofNat 6 off) = .key j) ↔ 0x10 ≤ off ∧ off < 0x20 := by
  simp only [windowReg, BitVec.toNat_ofNat]
  split_ifs <;> simp <;> omega

theorem windowReg_eq_din_iff (off : Nat) (h : off < 64) :
    (∃ j, windowReg (BitVec.ofNat 6 off) = .din j) ↔ 0x20 ≤ off ∧ off < 0x30 := by
  simp only [windowReg, BitVec.toNat_ofNat]
  split_ifs <;> simp <;> omega


/-- A conforming access is an aligned 32-bit one at an offset of the window (20 R73). -/
theorem windowHit_register {p : Params} {addr size : Nat} {o : BitVec 6} (h : windowHit p addr size = .register o) :
    ∃ off, addr = p.aesBase + off ∧ size = 4 ∧ off % 4 = 0 ∧ off < 64 ∧ o = BitVec.ofNat 6 off := by
  have hc : conforming p.aesBase addr size = true := by
    by_contra hc
    rw [windowHit, if_neg hc] at h
    split at h <;> cases h
  simp only [conforming, Bool.and_eq_true, beq_iff_eq, decide_eq_true_eq] at hc
  obtain ⟨⟨⟨rfl, hlo⟩, hhi⟩, h4⟩ := hc
  obtain ⟨off, rfl⟩ := Nat.exists_eq_add_of_le hlo
  have hoff : off % 4 = 0 ∧ off < 64 := by omega
  obtain ⟨h4, hlt⟩ := hoff
  rw [windowHit_offset p off h4 hlt] at h
  cases h
  exact ⟨off, rfl, rfl, h4, hlt, rfl⟩

/-- Everything an aligned write at an offset of the window can do, by the offset: while BUSY is 1 it is dropped or has
no effect (20 R84), while BUSY is 0 it has the effect of its register (20 R76). -/
theorem writeRegister_offset_cases {off : Nat} {v : Word} {st t : State} (h4 : off % 4 = 0) (h : off < 64)
    (hw : writeRegister (BitVec.ofNat 6 off) v st = .next t) :
    (¬ (off = 0 ∨ (0x10 ≤ off ∧ off < 0x30)) ∧ t = st) ∨
      ((off = 0 ∨ (0x10 ≤ off ∧ off < 0x30)) ∧ st.busy = true ∧ t = st.setDrop) ∨
      (off = 0 ∧ st.busy = false ∧ exec (decode v) st = .next t) ∨
      ((0x10 ≤ off ∧ off < 0x20) ∧ st.busy = false ∧ ∃ k, t = { st with key := k }) ∨
      ((0x20 ≤ off ∧ off < 0x30) ∧ st.busy = false ∧ ∃ d, t = { st with din := d }) := by
  have hcmd := windowReg_eq_cmd_iff off h4 h
  have hkey := windowReg_eq_key_iff off h
  have hdin := windowReg_eq_din_iff off h
  obtain ⟨t', ht', hcases⟩ := writeRegister_cases (BitVec.ofNat 6 off) v st
  obtain rfl : t' = t := by rw [ht'] at hw; cases hw; rfl
  rcases hcases with ⟨hreg, hex⟩ | ⟨hreg, rfl⟩ | ⟨hb, hreg, rfl⟩ | ⟨hb, j, hreg, rfl⟩ | ⟨hb, j, hreg, rfl⟩
  · obtain rfl := hcmd.1 hreg
    cases hb : st.busy with
    | true =>
      rw [exec_busy _ hb] at hex
      cases hex
      exact .inr (.inl ⟨.inl rfl, rfl, rfl⟩)
    | false => exact .inr (.inr (.inl ⟨rfl, rfl, hex⟩))
  · refine .inl ⟨?_, rfl⟩
    rintro (h0 | hr)
    · rw [hcmd.2 h0] at hreg; simp at hreg
    · by_cases hlt : off < 0x20
      · obtain ⟨j, hj⟩ := hkey.2 ⟨hr.1, hlt⟩; rw [hj] at hreg; simp at hreg
      · obtain ⟨j, hj⟩ := hdin.2 ⟨by omega, hr.2⟩; rw [hj] at hreg; simp at hreg
  · refine .inr (.inl ⟨.inr ?_, hb, rfl⟩)
    obtain hk | hd := hreg
    · have := hkey.1 hk; omega
    · have := hdin.1 hd; omega
  · exact .inr (.inr (.inr (.inl ⟨hkey.1 ⟨j, hreg⟩, hb, _, rfl⟩)))
  · exact .inr (.inr (.inr (.inr ⟨hdin.1 ⟨j, hreg⟩, hb, _, rfl⟩)))

/-! ### A step, told by the write its turn makes -/

/-- The access of a turn depends on the host and the parameters, which taking the turn off the schedule keeps. -/
theorem turnAccess_nextTurn (tn : Turn) (st : State) : turnAccess tn (nextTurn st).2 = turnAccess tn st := by
  cases tn with
  | access a => cases a <;> rfl
  | host => simp only [turnAccess, nextTurn_host, nextTurn_params]
  | engine => rfl
  | assertReset => rfl
  | releaseReset => rfl

/-- A host turn is the bus write it makes, from a state whose host has moved on, or it writes nothing and changes the
host alone (30 R108). -/
theorem hostTurn_cases {st t : State} (h : hostTurn st = .next t) :
    (∃ addr v ag, turnAccess .host st = some (addr, 4, some v) ∧ memWrite addr 4 v (withHost st ag) = .next t) ∨
      ((∀ addr size v, turnAccess .host st ≠ some (addr, size, some v)) ∧ ∃ ag, t = withHost st ag) := by
  unfold hostTurn at h
  by_cases hh : st.host.halted = true
  · rw [if_pos hh] at h
    cases h
    exact .inr ⟨by simp [turnAccess, hh], st.host, rfl⟩
  · rw [if_neg hh] at h
    cases hi : st.host.prog[st.host.pc]? with
    | none =>
      rw [hi] at h
      cases h
      exact .inr ⟨by simp [turnAccess, hh, hi], st.host, rfl⟩
    | some i =>
      rw [hi] at h
      cases i with
      | wrImm off imm => exact .inl ⟨_, imm, _, by simp [turnAccess, hh, hi], h⟩
      | wrReg off n => exact .inl ⟨_, _, _, by simp [turnAccess, hh, hi], h⟩
      | rd n off =>
        refine .inr ⟨by simp [turnAccess, hh, hi], ?_⟩
        simp only [hostExec, hostRead] at h
        split at h <;> cases h
        exact ⟨_, rfl⟩
      | andi n m imm => cases h; exact .inr ⟨by simp [turnAccess, hh, hi], _, rfl⟩
      | bnez n l => cases h; exact .inr ⟨by simp [turnAccess, hh, hi], _, rfl⟩
      | beqz n l => cases h; exact .inr ⟨by simp [turnAccess, hh, hi], _, rfl⟩
      | halt => cases h; exact .inr ⟨by simp [turnAccess, hh, hi], _, rfl⟩

/-- A host's or an access's turn is the bus write it makes, or it writes nothing and changes the host and `readData`
alone; the other turns are as in `runTurn`. -/
theorem runTurn_write_cases {tn : Turn} {st t : State} (h : runTurn tn st = .next t) :
    (tn = .engine ∧ engineTurn st = .next t) ∨
      (∃ addr size v ag, turnAccess tn st = some (addr, size, some v) ∧
        memWrite addr size v (withHost st ag) = .next t) ∨
      ((∀ addr size v, turnAccess tn st ≠ some (addr, size, some v)) ∧
        ∃ ag d, t = { withHost st ag with readData := d }) ∨
      (tn = .assertReset ∧ t = assertReset st) ∨ (tn = .releaseReset ∧ t = releaseReset st) := by
  cases tn with
  | engine => exact .inl ⟨rfl, h⟩
  | host =>
    obtain ⟨addr, v, ag, ha, hw⟩ | ⟨ha, ag, ht⟩ := hostTurn_cases h
    · exact .inr (.inl ⟨addr, 4, v, ag, ha, hw⟩)
    · exact .inr (.inr (.inl ⟨ha, ag, st.readData, ht⟩))
  | access a =>
    cases a with
    | write addr size v => exact .inr (.inl ⟨addr, size, v, st.host, rfl, h⟩)
    | read addr size =>
      refine .inr (.inr (.inl ⟨by simp [turnAccess], st.host, ?_⟩))
      simp only [runTurn, access] at h
      split at h <;> cases h
      exact ⟨_, rfl⟩
  | assertReset => cases h; exact .inr (.inr (.inr (.inl ⟨rfl, rfl⟩)))
  | releaseReset => cases h; exact .inr (.inr (.inr (.inr ⟨rfl, rfl⟩)))

/-- Everything a step can do: the sequencer's turn, the register write its turn makes, nothing that the engine sees, or
a change of the reset input. -/
theorem step_cases {st t : State} (h : step st = .next t) :
    (st.turn = .engine ∧ engineTurn (nextTurn st).2 = .next t) ∨
      (∃ off v ag, st.writes off v ∧ off % 4 = 0 ∧ off < 64 ∧ st.resetIn = false ∧
        writeRegister (BitVec.ofNat 6 off) v (withHost (nextTurn st).2 ag) = .next t) ∨
      ((∀ off v, ¬ st.writes off v) ∧ ∃ ag d, t = { withHost (nextTurn st).2 ag with readData := d }) ∨
      (st.turn = .assertReset ∧ t = assertReset (nextTurn st).2) ∨
      (st.turn = .releaseReset ∧ t = releaseReset (nextTurn st).2) := by
  obtain ⟨-, hrun⟩ := step_next h
  rcases runTurn_write_cases hrun with he | ⟨addr, size, v, ag, ha, hm⟩ | ⟨ha, ht⟩ | hr
  · exact .inl he
  · obtain ⟨hr, o, hhit, hreg⟩ := memWrite_cases hm
    obtain ⟨off, rfl, rfl, h4, hlt, rfl⟩ := windowHit_register hhit
    rw [turnAccess_nextTurn] at ha
    exact .inr (.inl ⟨off, v, ag, by simpa [State.writes, State.turn] using ha, h4, hlt, by simpa using hr, hreg⟩)
  · exact .inr (.inr (.inl ⟨fun off v hw => ha _ _ _ ((turnAccess_nextTurn _ _).trans hw), ht⟩))
  · exact .inr (.inr (.inr hr))

/-- A turn makes one write at most. -/
theorem writes_unique {st : State} {off off' : Nat} {v v' : Word} (h : st.writes off v) (h' : st.writes off' v') :
    off = off' ∧ v = v' := by
  simpa using h.symm.trans h'

/-- The sequencer's turn and the reset input's turns make no write. -/
theorem turn_of_writes {st : State} {off : Nat} {v : Word} (h : st.writes off v) :
    st.turn ≠ .engine ∧ st.turn ≠ .assertReset ∧ st.turn ≠ .releaseReset := by
  refine ⟨?_, ?_, ?_⟩ <;> intro ht <;> simp [State.writes, ht, turnAccess] at h

/-- A step whose turn makes a write is that register write, aligned and in the window (20 R73, R74; 70 R311). -/
theorem step_of_writes {st t : State} {off : Nat} {v : Word} (h : step st = .next t) (hw : st.writes off v) :
    off % 4 = 0 ∧ off < 64 ∧ ∃ ag, writeRegister (BitVec.ofNat 6 off) v (withHost (nextTurn st).2 ag) = .next t := by
  obtain ⟨hne, hna, hnr⟩ := turn_of_writes hw
  rcases step_cases h with ⟨he, -⟩ | ⟨off', v', ag, hw', h4, hlt, -, hreg⟩ | ⟨hno, -⟩ | ⟨ha, -⟩ | ⟨hr, -⟩
  · exact absurd he hne
  · obtain ⟨rfl, rfl⟩ := writes_unique hw hw'
    exact ⟨h4, hlt, ag, hreg⟩
  · exact absurd hw (hno off v)
  · exact absurd ha hna
  · exact absurd hr hnr

/-- A step whose turn asserts reset does so. -/
theorem step_of_assertReset {st t : State} (h : step st = .next t) (ha : st.turn = .assertReset) :
    t = assertReset (nextTurn st).2 := by
  obtain ⟨-, hrun⟩ := step_next h
  rw [show (nextTurn st).1 = .assertReset from ha] at hrun
  cases hrun
  rfl

/-- The sequencer's turn changes neither DROP nor ERR (10 R36, R37). -/
theorem engineTurn_drop_err {st t : State} (h : engineTurn st = .next t) : t.drop = st.drop ∧ t.err = st.err := by
  rcases engineTurn_cases h with ⟨-, rfl⟩ | ⟨-, ⟨-, hs⟩ | ⟨-, hs⟩ | ⟨-, hs⟩⟩
  · exact ⟨rfl, rfl⟩
  · obtain ⟨-, -, ⟨-, rfl⟩ | ⟨-, rfl⟩⟩ := stepKeyExp_cases hs <;> exact ⟨rfl, rfl⟩
  · obtain ⟨-, -, ⟨-, rfl⟩ | ⟨-, rfl⟩⟩ := stepEnc_cases hs <;> exact ⟨rfl, rfl⟩
  · obtain ⟨-, ⟨-, rfl⟩ | ⟨-, rfl⟩⟩ := stepDec_cases hs <;> exact ⟨rfl, rfl⟩

/-! ### The issue of a command word (44 R220; 60 R283) -/

/-- The first failing check of the issue of the word v, in the order of 60 R283; none when the command is accepted. -/
def issueError (v : Word) (keyValid : Bool) : Option CmdError :=
  if (fieldOp v).getLsbD 2 = true ∨ fieldRsv0 v ≠ 0 ∨ fieldRsv1 v ≠ 0 then some .illegalCmd
  else if fieldOp v ≠ 1 ∧ keyValid = false then some .noKey
  else if ¬ lenAccepted (fieldLen v) = true then
    some (if fieldOp v = 1 then .invalidKeyLength else .invalidBlockLength)
  else none

/-- The start of an accepted command, by its OP (44 R222 to R224). -/
def startCommand (op : BitVec 3) : State → State :=
  if op = 1 then startKeyExp else if op = 2 then startEnc else startDec

/-- A start is one of the three (44 R222 to R224). -/
theorem startCommand_cases (op : BitVec 3) :
    startCommand op = startKeyExp ∨ startCommand op = startEnc ∨ startCommand op = startDec := by
  unfold startCommand
  split_ifs <;> simp

@[simp] theorem startCommand_drop (op : BitVec 3) (st : State) : (startCommand op st).drop = false := by
  obtain h | h | h := startCommand_cases op <;> simp [h]
@[simp] theorem startCommand_err (op : BitVec 3) (st : State) : (startCommand op st).err = 0 := by
  obtain h | h | h := startCommand_cases op <;> simp [h]
@[simp] theorem startCommand_busy (op : BitVec 3) (st : State) : (startCommand op st).busy = true := by
  obtain h | h | h := startCommand_cases op <;> simp [h, busy_eq]

@[simp] theorem reportCmdError_busy (e : CmdError) (st : State) : (reportCmdError e st).busy = st.busy := rfl

theorem CmdError.code_ne_zero (e : CmdError) : e.code ≠ 0 := by cases e <;> decide

/-- A word with OP = 0 does nothing while BUSY is 0 (44 R221). -/
theorem exec_decode_nop {v : Word} {st : State} (hb : st.busy = false) (hop : fieldOp v = 0) :
    exec (decode v) st = .next st := by
  rw [decode, if_pos hop, exec_nop, whileIdle_idle _ hb]

/-- The issue of a block command, as the report of its first failing check or its start (60 R283). -/
theorem issueBlock_eq_elim (start : State → State) (len : BitVec 8) (st : State) :
    issueBlock start len st =
      Option.elim (if st.keyValid = false then some .noKey
        else if ¬ lenAccepted len = true then some .invalidBlockLength else none)
        (start st) (reportCmdError · st) := by
  unfold issueBlock
  split_ifs <;> rfl

/-- The issue of a non-NOP word while BUSY is 0: the report of the first failing check, or the start of its command
(44 R220; 60 R283). -/
theorem exec_decode_issue {v : Word} {st : State} (hb : st.busy = false) (hop : fieldOp v ≠ 0) :
    exec (decode v) st =
      .next ((issueError v st.keyValid).elim (startCommand (fieldOp v) st) (reportCmdError · st)) := by
  rw [decode, if_neg hop]
  by_cases h2 : (fieldOp v).getLsbD 2 = true
  · rw [if_pos h2, exec_illegalReservedOp, whileIdle_idle _ hb, issueError, if_pos (.inl h2)]
    rfl
  rw [if_neg h2]
  by_cases hrsv : fieldRsv0 v ≠ 0 ∨ fieldRsv1 v ≠ 0
  · rw [if_pos hrsv, exec_illegalReservedBits, whileIdle_idle _ hb, issueError, if_pos (.inr hrsv)]
    rfl
  rw [if_neg hrsv, issueError, if_neg (not_or.2 ⟨h2, hrsv⟩)]
  by_cases h1 : fieldOp v = 1
  · rw [if_pos h1, exec_keyExpand, whileIdle_idle _ hb]
    by_cases hl : lenAccepted (fieldLen v) = true <;> simp [issueKeyExpand, startCommand, h1, hl]
  rw [if_neg h1]
  by_cases hop2 : fieldOp v = 2
  · rw [if_pos hop2, exec_encryptBlock, whileIdle_idle _ hb, issueBlock_eq_elim]
    simp only [startCommand, if_pos hop2, ne_eq, h1, not_false_eq_true, true_and, if_false]
  · rw [if_neg hop2, exec_decryptBlock, whileIdle_idle _ hb, issueBlock_eq_elim]
    simp only [startCommand, if_neg hop2, ne_eq, h1, not_false_eq_true, true_and, if_false]

/-! ### The fields of a command word as numbers (30 R100) -/

theorem fieldOp_toNat (v : Word) : (fieldOp v).toNat = v.toNat % 8 := by
  simp [fieldOp, BitVec.extractLsb'_toNat]

theorem fieldRsv0_toNat (v : Word) : (fieldRsv0 v).toNat = v.toNat / 8 % 32 := by
  simp [fieldRsv0, BitVec.extractLsb'_toNat, Nat.shiftRight_eq_div_pow]

theorem fieldLen_toNat (v : Word) : (fieldLen v).toNat = v.toNat / 256 % 256 := by
  simp [fieldLen, BitVec.extractLsb'_toNat, Nat.shiftRight_eq_div_pow]

theorem fieldRsv1_toNat (v : Word) : (fieldRsv1 v).toNat = v.toNat / 65536 := by
  have hv := v.isLt
  simp only [fieldRsv1, BitVec.extractLsb'_toNat, Nat.shiftRight_eq_div_pow]
  omega

theorem fieldOp_eq_one_iff (v : Word) : fieldOp v = 1 ↔ v.toNat % 8 = 1 := by
  rw [← BitVec.toNat_inj, fieldOp_toNat]; rfl

theorem fieldOp_bit_two_iff (v : Word) : (fieldOp v).getLsbD 2 = true ↔ v.toNat / 4 % 2 = 1 := by
  simp only [BitVec.getLsbD, fieldOp_toNat, Nat.testBit_eq_decide_div_mod_eq, decide_eq_true_eq]
  omega

theorem fieldRsv0_ne_zero_iff (v : Word) : fieldRsv0 v ≠ 0 ↔ v.toNat / 8 % 32 ≠ 0 := by
  rw [ne_eq, ← BitVec.toNat_inj, fieldRsv0_toNat]; rfl

theorem fieldRsv1_ne_zero_iff (v : Word) : fieldRsv1 v ≠ 0 ↔ v.toNat / 65536 ≠ 0 := by
  rw [ne_eq, ← BitVec.toNat_inj, fieldRsv1_toNat]; rfl

theorem lenAccepted_fieldLen_iff (v : Word) : lenAccepted (fieldLen v) = true ↔ v.toNat / 256 % 256 = 16 := by
  rw [lenAccepted, beq_iff_eq, fieldLen_toNat]

/-- The code an issue writes into ERR, on the command word as a number (60 R280, R283). -/
theorem issueError_code (v : Word) (keyValid : Bool) :
    (issueError v keyValid).elim 0 CmdError.code =
      if v.toNat / 4 % 2 = 1 ∨ v.toNat / 8 % 32 ≠ 0 ∨ v.toNat / 65536 ≠ 0 then 4
      else if v.toNat % 8 ≠ 1 ∧ keyValid = false then 3
      else if v.toNat / 256 % 256 ≠ 16 then (if v.toNat % 8 = 1 then 1 else 2)
      else 0 := by
  simp only [issueError, fieldOp_bit_two_iff, fieldRsv0_ne_zero_iff, fieldRsv1_ne_zero_iff, ne_eq,
    fieldOp_eq_one_iff, lenAccepted_fieldLen_iff]
  split_ifs <;> rfl

/-! ### A step that issues a command -/

/-- A step that issues the word v ends in the report of its first failing check or in the start of its command, from
the state that its write meets (44 R220; 60 R283). -/
theorem step_of_issues {st t : State} {v : Word} (h : step st = .next t) (hi : st.issues v) :
    ∃ x : State, x.busy = false ∧
      t = (issueError v st.keyValid).elim (startCommand (fieldOp v) x) (reportCmdError · x) := by
  obtain ⟨hw, hb, hop⟩ := hi
  obtain ⟨h4, hlt, ag, hreg⟩ := step_of_writes h hw
  have hb' : (withHost (nextTurn st).2 ag).busy = false := by simpa using hb
  refine ⟨_, hb', ?_⟩
  rcases writeRegister_offset_cases h4 hlt hreg with
    ⟨hno, -⟩ | ⟨-, hbusy, -⟩ | ⟨-, -, hex⟩ | ⟨hoff, -⟩ | ⟨hoff, -⟩
  · exact absurd (.inl rfl) hno
  · exact absurd (hb'.symm.trans hbusy) (by decide)
  · rw [exec_decode_issue hb' hop] at hex
    cases hex
    simp
  · omega
  · omega

/-- Everything a step can do to DROP and ERR: reset clears them, a write that BUSY drops sets DROP, an issue writes
both, and any other step keeps them (10 R36, R37). -/
theorem step_drop_err_cases {st t : State} (h : step st = .next t) :
    st.turn = .assertReset ∨
      (st.busy = true ∧ t.drop = true ∧ t.err = st.err ∧
        ∃ off v, st.writes off v ∧ (off = 0 ∨ (0x10 ≤ off ∧ off < 0x30))) ∨
      (∃ v, st.issues v) ∨ (t.drop = st.drop ∧ t.err = st.err) := by
  rcases step_cases h with ⟨-, he⟩ | ⟨off, v, ag, hw, h4, hlt, -, hreg⟩ | ⟨-, ag, d, rfl⟩ | ⟨ha, -⟩ | ⟨-, rfl⟩
  · exact .inr (.inr (.inr (by simpa using engineTurn_drop_err he)))
  · rcases writeRegister_offset_cases h4 hlt hreg with
      ⟨-, rfl⟩ | ⟨hoff, hb, rfl⟩ | ⟨rfl, hb, hex⟩ | ⟨-, -, k, rfl⟩ | ⟨-, -, d, rfl⟩
    · exact .inr (.inr (.inr (by simp)))
    · exact .inr (.inl ⟨by simpa using hb, by simp, by simp, off, v, hw, hoff⟩)
    · by_cases hop : fieldOp v = 0
      · rw [exec_decode_nop hb hop] at hex
        cases hex
        exact .inr (.inr (.inr (by simp)))
      · exact .inr (.inr (.inl ⟨v, hw, by simpa using hb, hop⟩))
    · exact .inr (.inr (.inr (by simp)))
    · exact .inr (.inr (.inr (by simp)))
  · exact .inr (.inr (.inr (by simp)))
  · exact .inl ha
  · exact .inr (.inr (.inr (by simp)))

/-- An issue clears DROP (10 R36). -/
theorem drop_of_issues {st t : State} {v : Word} (h : step st = .next t) (hi : st.issues v) : t.drop = false := by
  obtain ⟨x, -, rfl⟩ := step_of_issues h hi
  cases issueError v st.keyValid <;> simp

/-- An issue writes ERR with the code of its first failing check, and BUSY is 1 after it exactly when there is none
(10 R37). -/
theorem busy_err_of_issues {st t : State} {v : Word} (h : step st = .next t) (hi : st.issues v) :
    (t.busy = true ↔ t.err = 0) ∧ t.err = (issueError v st.keyValid).elim 0 CmdError.code := by
  obtain ⟨x, hb, rfl⟩ := step_of_issues h hi
  cases issueError v st.keyValid with
  | none => simp
  | some e => exact ⟨iff_of_false (by simp [hb]) e.code_ne_zero, rfl⟩

/-- A write to CMD, KEYj or DINj while BUSY is 1 sets DROP (20 R84). -/
theorem drop_of_busy_write {st t : State} {off : Nat} {v : Word} (h : step st = .next t) (hb : st.busy = true)
    (hw : st.writes off v) (hoff : off = 0 ∨ (0x10 ≤ off ∧ off < 0x30)) : t.drop = true := by
  obtain ⟨h4, hlt, ag, hreg⟩ := step_of_writes h hw
  have hb' : (withHost (nextTurn st).2 ag).busy = true := by simpa using hb
  rcases writeRegister_offset_cases h4 hlt hreg with
    ⟨hno, -⟩ | ⟨-, -, rfl⟩ | ⟨-, hidle, -⟩ | ⟨-, hidle, -⟩ | ⟨-, hidle, -⟩
  · exact absurd hoff hno
  · rfl
  all_goals exact absurd (hb'.symm.trans hidle) (by decide)

/-! ### STATUS -/

/-- The four flags of STATUS stand in its bits 0 to 3 (10 R32). -/
theorem statusWord_flags (st : State) :
    st.statusWord.getLsbD 0 = st.busy ∧ st.statusWord.getLsbD 1 = st.done ∧
      st.statusWord.getLsbD 2 = st.keyValid ∧ st.statusWord.getLsbD 3 = st.drop := by
  refine ⟨?_, ?_, ?_, ?_⟩ <;> (simp only [State.statusWord, BitVec.getLsbD_append]; simp)

/-- Above the flags STATUS holds ERR in bits 8 to 11 and nothing else (10 R32). -/
theorem statusWord_above_flags (st : State) (k : Nat) (h : 4 ≤ k) :
    st.statusWord.getLsbD k = if 8 ≤ k ∧ k < 12 then st.err.getLsbD (k - 8) else false := by
  have hfield : st.statusWord.getLsbD k = ((0 : BitVec 20) ++ st.err ++ (0 : BitVec 4)).getLsbD (k - 4) := by
    simp only [State.statusWord, BitVec.getLsbD_append (m := 1), show ¬ k < 1 by omega,
      show ¬ k - 1 < 1 by omega, show ¬ k - 1 - 1 < 1 by omega, show ¬ k - 1 - 1 - 1 < 1 by omega, if_false]
    rfl
  rw [hfield, BitVec.getLsbD_append, BitVec.getLsbD_append, Nat.sub_sub]
  by_cases h8 : k < 8
  · rw [if_pos (by omega), if_neg (by omega)]
    exact BitVec.getLsbD_zero
  · rw [if_neg (by omega)]
    by_cases h12 : k < 12
    · rw [if_pos (by omega), if_pos (by omega)]
    · rw [if_neg (by omega), if_neg (by omega)]
      exact BitVec.getLsbD_zero

end Sys2Proof.Machine
end

section
/-! The statements of 10_state settled: DROP (R36), ERR (R37) and the bits of STATUS (R32, R33). -/

open Sys2Proof Sys2Proof.Machine

/-- Settles O39: `step_drop_err_cases` says when DROP can change, and each event that sets or clears it has a lemma that
says it does. -/
theorem dropChangesOnlyAsStated : Obligations.DropChangesOnlyAsStated := by
  unfold Obligations.DropChangesOnlyAsStated
  intro st t h
  refine ⟨fun ht hs => ?_, fun ht hs => ?_, fun off v hb hw hoff => drop_of_busy_write h hb hw hoff,
    fun v hi => drop_of_issues h hi, fun ha => ?_⟩
  · rcases step_drop_err_cases h with ha | ⟨hb, -, -, hw⟩ | ⟨v, hi⟩ | ⟨hd, -⟩
    · simp [step_of_assertReset h ha] at ht
    · exact ⟨hb, hw⟩
    · simp [drop_of_issues h hi] at ht
    · simp [← hd, ht] at hs
  · rcases step_drop_err_cases h with ha | ⟨-, hd, -⟩ | hi | ⟨hd, -⟩
    · exact .inl ha
    · simp [ht] at hd
    · exact .inr hi
    · simp [← hd, ht] at hs
  · rw [step_of_assertReset h ha, assertReset_drop]

/-- Settles O40: `step_drop_err_cases` says when ERR can change, and `busy_err_of_issues` what an issue writes. -/
theorem errChangesOnlyAsStated : Obligations.ErrChangesOnlyAsStated := by
  unfold Obligations.ErrChangesOnlyAsStated
  intro st t h
  refine ⟨fun hne => ?_, fun v hi => ?_, fun ha => ?_⟩
  · rcases step_drop_err_cases h with ha | ⟨-, -, he, -⟩ | hi | ⟨-, he⟩
    · exact .inl ha
    · exact absurd he hne
    · exact .inr hi
    · exact absurd he hne
  · obtain ⟨hbusy, herr⟩ := busy_err_of_issues h hi
    exact ⟨hbusy, herr.trans (issueError_code v st.keyValid)⟩
  · rw [step_of_assertReset h ha, assertReset_err]

/-- Settles O17: `statusWord_flags` and `statusWord_above_flags` say what stands at each bit. -/
theorem statusBits : Obligations.StatusBits := by
  unfold Obligations.StatusBits
  intro st
  obtain ⟨hbusy, hdone, hkey, hdrop⟩ := statusWord_flags st
  refine ⟨hbusy.trans ?_, hdone, hkey, hdrop, fun k hk => ?_, fun k hk => ?_⟩
  · cases h : st.seq <;> simp [busy_eq, h]
  · rw [statusWord_above_flags _ _ (by omega), if_pos (by omega), Nat.add_sub_cancel_left]
  · rw [statusWord_above_flags _ _ (by omega), if_neg (by omega)]

end

section
/-! The facts under the statements of 20_memory: what an aligned 32-bit write at an offset of the window does (20 R76,
R84), and the bytes of an array whose word register is written (20 R70). -/

namespace Sys2Proof.Machine

/-- An aligned write at an offset that is neither CMD nor KEYj nor DINj has no effect (20 R76). -/
theorem memWrite_no_effect {st : State} {off : Nat} (v : Word) (hr : st.resetIn = false) (h4 : off % 4 = 0)
    (h : off < 64) (hoff : ¬ (off = 0 ∨ (0x10 ≤ off ∧ off < 0x30))) :
    memWrite (st.params.aesBase + off) 4 v st = .next st := by
  obtain ⟨t, ht, -⟩ := writeRegister_cases (BitVec.ofNat 6 off) v st
  rw [memWrite_offset st off v h4 h hr, ht]
  rcases writeRegister_offset_cases h4 h ht with ⟨-, rfl⟩ | ⟨hin, -⟩ | ⟨rfl, -⟩ | ⟨hkey, -⟩ | ⟨hdin, -⟩
  · rfl
  · exact absurd hin hoff
  all_goals omega

/-- While BUSY is 1 an aligned write to CMD, KEYj or DINj only sets DROP (20 R84). -/
theorem memWrite_busy {st : State} {off : Nat} (v : Word) (hr : st.resetIn = false) (h4 : off % 4 = 0)
    (hb : st.busy = true) (hoff : off = 0 ∨ (0x10 ≤ off ∧ off < 0x30)) :
    memWrite (st.params.aesBase + off) 4 v st = .next st.setDrop := by
  have h : off < 64 := by omega
  obtain ⟨t, ht, -⟩ := writeRegister_cases (BitVec.ofNat 6 off) v st
  rw [memWrite_offset st off v h4 h hr, ht]
  rcases writeRegister_offset_cases h4 h ht with
    ⟨hno, -⟩ | ⟨-, -, rfl⟩ | ⟨-, hidle, -⟩ | ⟨-, hidle, -⟩ | ⟨-, hidle, -⟩
  · exact absurd hoff hno
  · rfl
  all_goals exact absurd (hb.symm.trans hidle) (by decide)

/-- A write to CMD issues the command that the word encodes (10 R31; 20 R76). -/
theorem memWrite_cmd {st : State} (v : Word) (hr : st.resetIn = false) :
    memWrite (st.params.aesBase + 0x00) 4 v st = exec (decode v) st :=
  memWrite_offset st 0x00 v (by decide) (by decide) hr

theorem windowReg_key : ∀ j : Fin 4, windowReg (BitVec.ofNat 6 (0x10 + 4 * j.val)) = .key j := by decide

theorem windowReg_din : ∀ j : Fin 4, windowReg (BitVec.ofNat 6 (0x20 + 4 * j.val)) = .din j := by decide

/-- A write to KEYj passes the BUSY gate and sets the lane j of KEY (10 R38; 20 R76). -/
theorem memWrite_key {st : State} (v : Word) (hr : st.resetIn = false) (j : Fin 4) :
    memWrite (st.params.aesBase + (0x10 + 4 * j.val)) 4 v st =
      whileIdle (fun x => { x with key := setLane x.key j v }) st := by
  rw [memWrite_offset st _ v (by omega) (by omega) hr, writeRegister, windowReg_key j]

/-- A write to DINj passes the BUSY gate and sets the lane j of DIN (10 R39; 20 R76). -/
theorem memWrite_din {st : State} (v : Word) (hr : st.resetIn = false) (j : Fin 4) :
    memWrite (st.params.aesBase + (0x20 + 4 * j.val)) 4 v st =
      whileIdle (fun x => { x with din := setLane x.din j v }) st := by
  rw [memWrite_offset st _ v (by omega) (by omega) hr, writeRegister, windowReg_din j]

/-- Byte 4j + i of an array after a write of its word register j is byte i of the word written (20 R70). -/
theorem setLane_getD_lane (b : Block) (j : Fin 4) (v : Word) (i : Nat) (hi : i < 4) :
    (setLane b j v).getD (4 * j.val + i) 0 = laneByte v i := by
  rw [setLane_getD b j v _ (by omega), if_pos (by omega), show (4 * j.val + i) % 4 = i by omega]

/-- The bytes of an array after a write of its word register j: the register's four hold the word, most significant byte
first, and the others are kept (20 R70). -/
theorem setLane_bytes (b : Block) (j : Fin 4) (v : Word) :
    (setLane b j v).getD (4 * j.val) 0 = v.extractLsb' 24 8 ∧
      (setLane b j v).getD (4 * j.val + 1) 0 = v.extractLsb' 16 8 ∧
      (setLane b j v).getD (4 * j.val + 2) 0 = v.extractLsb' 8 8 ∧
      (setLane b j v).getD (4 * j.val + 3) 0 = v.extractLsb' 0 8 ∧
      ∀ n, n < 16 → n / 4 ≠ j.val → (setLane b j v).getD n 0 = b.getD n 0 :=
  ⟨setLane_getD_lane b j v 0 (by decide), setLane_getD_lane b j v 1 (by decide),
    setLane_getD_lane b j v 2 (by decide), setLane_getD_lane b j v 3 (by decide),
    fun n hn hj => (setLane_getD b j v n hn).trans (if_neg hj)⟩

end Sys2Proof.Machine
end

section
/-! The statements of 20_memory settled: what conforming writes do (R76), and what they do while BUSY is 1 (R84). -/

open Sys2Proof Sys2Proof.Machine

/-- Settles O14: `memWrite_busy` at the offsets of CMD, KEYj and DINj, `memWrite_no_effect` at the others. -/
theorem busyWritesAreDropped : Obligations.BusyWritesAreDropped := by
  unfold Obligations.BusyWritesAreDropped
  intro st off v hb hr hlt h4
  by_cases hoff : off = 0 ∨ (0x10 ≤ off ∧ off < 0x30)
  · rw [if_pos hoff]
    exact memWrite_busy v hr h4 hb hoff
  · rw [if_neg hoff]
    exact memWrite_no_effect v hr h4 hlt hoff

/-- Settles O15: one lemma for each register a write can reach, and `setLane_bytes` for the lanes of KEY and DIN. -/
theorem registerWrites : Obligations.RegisterWrites := by
  unfold Obligations.RegisterWrites
  intro st v hr
  refine ⟨?_, fun off hoff => ?_, fun j => ⟨setLane st.key j v, memWrite_key v hr j, setLane_bytes st.key j v⟩,
    fun j => ⟨setLane st.din j v, memWrite_din v hr j, setLane_bytes st.din j v⟩⟩
  · rw [memWrite_cmd v hr]
    split_ifs with hb
    · exact exec_busy (decode v) hb
    · rfl
  · exact memWrite_no_effect v hr (by omega) (by omega) (by omega)

end

section
/-! The facts under the statement of 30_encoding: the decoder on the command word as a number, and the numbers that
fall under each of its rows (30 R104, R106). -/

namespace Sys2Proof.Machine

theorem fieldOp_eq_zero_iff (v : Word) : fieldOp v = 0 ↔ v.toNat % 8 = 0 := by
  rw [← BitVec.toNat_inj, fieldOp_toNat]; rfl

theorem fieldOp_eq_two_iff (v : Word) : fieldOp v = 2 ↔ v.toNat % 8 = 2 := by
  rw [← BitVec.toNat_inj, fieldOp_toNat]; rfl

/-- LEN is the word without its lowest byte, cut to 8 bits: `zext_8(v[15:8])` (30 R102). -/
theorem fieldLen_eq_ofNat (v : Word) : fieldLen v = BitVec.ofNat 8 (v.toNat / 256) := by
  rw [← BitVec.toNat_inj, fieldLen_toNat, BitVec.toNat_ofNat]

/-- The checks of the decoder, on the word as a number (30 R104). -/
theorem decode_eq_checks (v : Word) :
    decode v =
      if v.toNat % 8 = 0 then .nop (fieldRsv0 v) (fieldLen v) (fieldRsv1 v)
      else if v.toNat / 4 % 2 = 1 then .illegalReservedOp (fieldOp v) (fieldRsv0 v) (fieldLen v) (fieldRsv1 v)
      else if v.toNat / 8 % 32 ≠ 0 ∨ v.toNat / 65536 ≠ 0 then
        .illegalReservedBits (fieldOp v) (fieldRsv0 v) (fieldLen v) (fieldRsv1 v)
      else if v.toNat % 8 = 1 then .keyExpand (fieldLen v)
      else if v.toNat % 8 = 2 then .encryptBlock (fieldLen v)
      else .decryptBlock (fieldLen v) := by
  simp only [decode, fieldOp_eq_zero_iff, fieldOp_bit_two_iff, fieldRsv0_ne_zero_iff, fieldRsv1_ne_zero_iff,
    fieldOp_eq_one_iff, fieldOp_eq_two_iff]

theorem decode_of_op_zero {v : Word} (hop : v.toNat % 8 = 0) :
    decode v = .nop (fieldRsv0 v) (fieldLen v) (fieldRsv1 v) := by
  rw [decode_eq_checks, if_pos hop]

theorem decode_of_reserved_op {v : Word} (h2 : v.toNat / 4 % 2 = 1) :
    decode v = .illegalReservedOp (fieldOp v) (fieldRsv0 v) (fieldLen v) (fieldRsv1 v) := by
  have hop : v.toNat % 8 ≠ 0 := by omega
  rw [decode_eq_checks, if_neg hop, if_pos h2]

theorem decode_of_reserved_bits {v : Word} (hop : v.toNat % 8 ≠ 0) (h2 : v.toNat / 4 % 2 = 0)
    (hrsv : v.toNat / 8 % 32 ≠ 0 ∨ v.toNat / 65536 ≠ 0) :
    decode v = .illegalReservedBits (fieldOp v) (fieldRsv0 v) (fieldLen v) (fieldRsv1 v) := by
  rw [decode_eq_checks, if_neg hop, if_neg (by omega), if_pos hrsv]

/-- A word with OP in 1..3 and no reserved bit set is the command of its OP (30 R104). -/
theorem decode_of_operation {v : Word} (hop : v.toNat % 8 ≠ 0) (h2 : v.toNat / 4 % 2 = 0)
    (hrsv0 : v.toNat / 8 % 32 = 0) (hrsv1 : v.toNat / 65536 = 0) :
    decode v =
      if v.toNat % 8 = 1 then .keyExpand (fieldLen v)
      else if v.toNat % 8 = 2 then .encryptBlock (fieldLen v)
      else .decryptBlock (fieldLen v) := by
  rw [decode_eq_checks, if_neg hop, if_neg (by omega), if_neg (by omega)]

end Sys2Proof.Machine
end

section
/-! The statement of 30_encoding settled: the decoder's checks and their order (R104). -/

open Sys2Proof Sys2Proof.Machine

/-- Settles O4: one lemma for each outcome of the decoder, and `fieldLen_eq_ofNat` for the LEN of an operation. -/
theorem decoderFollowsItsChecks : Obligations.DecoderFollowsItsChecks := by
  unfold Obligations.DecoderFollowsItsChecks
  intro v
  refine ⟨fun hop => ⟨_, _, _, decode_of_op_zero hop⟩, fun h2 => ⟨_, _, _, _, decode_of_reserved_op h2⟩,
    fun hop h2 hrsv => ⟨_, _, _, _, decode_of_reserved_bits hop h2 hrsv⟩, fun hrsv0 hrsv1 => ?_⟩
  rw [← fieldLen_eq_ofNat]
  refine ⟨fun hop => ?_, fun hop => ?_, fun hop => ?_⟩ <;>
    (rw [decode_of_operation (by omega) (by omega) hrsv0 hrsv1, hop]; rfl)

end

section
/-! The facts under the statement of 42_key_schedule: a word computed byte by byte (42 R172 to R175), and the
schedule that computing words one after the other ends with (42 R176). -/

namespace Sys2Proof.Machine

/-! ### One word, byte by byte -/

@[simp] theorem wordByte_xorWord (a b : KeyWord) (j : Fin 4) :
    wordByte (xorWord a b) j = wordByte a j ^^^ wordByte b j := by
  simp [xorWord]

@[simp] theorem wordByte_subWord (t : KeyWord) (j : Fin 4) : wordByte (subWord t) j = sbox (wordByte t j) := by
  simp [subWord]

@[simp] theorem wordByte_keyChunk (k : Block) (i : Nat) (j : Fin 4) :
    wordByte (keyChunk k i) j = k.getD (4 * i + j.val) 0 := by
  simp [keyChunk]

/-- RotWord's byte `j` is byte `j + 1` modulo 4 (42 R173). -/
@[simp] theorem wordByte_rotWord (t : KeyWord) (j : Fin 4) : wordByte (rotWord t) j = wordByte t (j + 1) := by
  fin_cases j <;> rfl

/-- The round constant changes byte 0 alone (42 R175). -/
@[simp] theorem wordByte_addRcon (i : Nat) (t : KeyWord) (j : Fin 4) :
    wordByte (addRcon i t) j = wordByte t j ^^^ (if j = 0 then rcon (i / 4 - 1) else 0) := by
  obtain rfl | rfl | rfl | rfl : j = 0 ∨ j = 1 ∨ j = 2 ∨ j = 3 := by omega
  · rfl
  all_goals exact BitVec.xor_zero.symm

/-- Byte `j` of word i, from the bytes of word i-1 and word i-4 (42 R172). -/
theorem wordByte_nextWord (w : Schedule) (i : Nat) (j : Fin 4) :
    wordByte (nextWord w i) j = wordByte (schedWord w (i - 4)) j ^^^
      (if i % 4 = 0 then
        sbox (wordByte (schedWord w (i - 1)) (j + 1)) ^^^ (if j = 0 then rcon (i / 4 - 1) else 0)
      else wordByte (schedWord w (i - 1)) j) := by
  rw [nextWord, wordByte_xorWord, scheduleTemp]
  by_cases hi : i % 4 = 0
  · simp only [if_pos hi, wordByte_addRcon, wordByte_subWord, wordByte_rotWord]
  · simp only [if_neg hi]

/-- The next word depends on the words before it alone. -/
theorem nextWord_congr {w v : Schedule} {i : Nat} (hi : 0 < i)
    (h : ∀ k, k < i → schedWord w k = schedWord v k) : nextWord w i = nextWord v i := by
  rw [nextWord, nextWord, h (i - 4) (by omega), h (i - 1) (by omega)]

/-! ### Words computed one after the other -/

/-- Computing words m to m+n-1 keeps the words before word m. -/
theorem schedWord_foldl_expandWord_lt {m n i : Nat} (w : Schedule) (h : m + n ≤ 44) (hi : i < m) :
    schedWord ((List.range' m n).foldl expandWord w) i = schedWord w i := by
  induction n generalizing m w with
  | zero => rfl
  | succ n ih =>
    rw [List.range'_succ, List.foldl_cons, ih _ (by omega) (by omega), schedWord_expandWord _ _ _ (by omega),
      if_neg (by omega)]

/-- After computing words m to m+n-1 in increasing order each of them is the next word of the schedule they end in:
the two words it was computed from have not changed since. -/
theorem schedWord_foldl_expandWord {m n i : Nat} (w : Schedule) (hm : 0 < m) (h : m + n ≤ 44) (hmi : m ≤ i)
    (hi : i < m + n) :
    schedWord ((List.range' m n).foldl expandWord w) i = nextWord ((List.range' m n).foldl expandWord w) i := by
  induction n generalizing m w with
  | zero => omega
  | succ n ih =>
    obtain rfl | hlt := Nat.eq_or_lt_of_le hmi
    · have hkept : ∀ k, k < m → schedWord w k = schedWord ((List.range' m (n + 1)).foldl expandWord w) k :=
        fun k hk => (schedWord_foldl_expandWord_lt w h hk).symm
      rw [← nextWord_congr hm hkept, List.range'_succ, List.foldl_cons,
        schedWord_foldl_expandWord_lt _ (by omega) (by omega), schedWord_expandWord _ _ _ (by omega), if_pos rfl]
    · rw [List.range'_succ, List.foldl_cons]
      exact ih _ (by omega) (by omega) (by omega) (by omega)

/-! ### The words of KeyExpansion -/

/-- Words 0 to 3 of KeyExpansion(K) are the key (42 R171). -/
theorem schedWord_keyExpansion_lt (k : Block) {i : Nat} (hi : i < 4) :
    schedWord (keyExpansion k) i = keyChunk k i := by
  rw [keyExpansion, schedWord_foldl_expandWord_lt _ (by omega) hi, schedWord_loadKeyWords _ _ _ (by omega), if_pos hi]

/-- Words 4 to 43 of KeyExpansion(K) follow from the words before them (42 R172, R176). -/
theorem schedWord_keyExpansion (k : Block) {i : Nat} (h4 : 4 ≤ i) (hi : i ≤ 43) :
    schedWord (keyExpansion k) i = nextWord (keyExpansion k) i :=
  schedWord_foldl_expandWord _ (by omega) (by omega) h4 (by omega)

end Sys2Proof.Machine
end

section
/-! The statement of 42_key_schedule settled: the words of KeyExpansion (R171, R172). -/

open Sys2Proof Sys2Proof.Machine

/-- Settles O24: words 0 to 3 by `schedWord_keyExpansion_lt`, each further word by `schedWord_keyExpansion` and the
bytes of the next word. -/
theorem keyExpansionRecurrence : Obligations.KeyExpansionRecurrence := by
  unfold Obligations.KeyExpansionRecurrence
  refine fun k => ⟨fun i hi j => ?_, fun i h4 hi j => ?_⟩
  · rw [schedWord_keyExpansion_lt k hi, wordByte_keyChunk]
  · rw [schedWord_keyExpansion k h4 hi, wordByte_nextWord]

end

section
/-! The facts under the statements of 44_block_cipher_commands: the issue of a command with its length check on LEN
itself (44 R222 to R224), and what a step of a running sequencer does (44 R228, R229). -/

namespace Sys2Proof.Machine

/-! ### The issue of a command -/

/-- 16 is the only length accepted (30 R102). -/
theorem lenAccepted_iff (len : BitVec 8) : lenAccepted len = true ↔ len = 16 := by
  rw [lenAccepted, beq_iff_eq, ← BitVec.toNat_inj]; rfl

/-- The issue of KEY_EXPAND: the length check, then the start (44 R222). -/
theorem issueKeyExpand_eq (len : BitVec 8) (st : State) :
    issueKeyExpand len st = if len ≠ 16 then reportCmdError .invalidKeyLength st else startKeyExp st := by
  simp only [issueKeyExpand, lenAccepted_iff, ne_eq, ite_not]

/-- The issue of a block command: KEY_VALID first, then the length, then its start (44 R223, R224). -/
theorem issueBlock_eq (start : State → State) (len : BitVec 8) (st : State) :
    issueBlock start len st =
      if st.keyValid = false then reportCmdError .noKey st
      else if len ≠ 16 then reportCmdError .invalidBlockLength st
      else start st := by
  simp only [issueBlock, lenAccepted_iff, ne_eq, ite_not]

/-! ### The sequencer -/

/-- A step of a running sequencer is the step of its command (44 R228). -/
theorem engineStep_cases {st t : State} (hs : st.seq ≠ .idle) (h : engineStep st = .next t) :
    (st.seq = .keyexp ∧ stepKeyExp st = .next t) ∨ (st.seq = .enc ∧ stepEnc st = .next t) ∨
      (st.seq = .dec ∧ stepDec st = .next t) := by
  unfold engineStep at h
  cases hq : st.seq <;> rw [hq] at h
  case idle => exact absurd hq hs
  case keyexp => exact .inl ⟨rfl, h⟩
  case enc => exact .inr (.inl ⟨rfl, h⟩)
  case dec => exact .inr (.inr ⟨rfl, h⟩)

/-- A step of a running sequencer changes W, S and RND alone, or it is the completion of its command (44 R228,
R229). -/
theorem engineStep_progress_or_completes {st t : State} (hs : st.seq ≠ .idle) (h : engineStep st = .next t) :
    (∃ w s r, t = { st with w := w, s := s, rnd := r }) ∨
      (st.seq = .keyexp ∧ ∃ w, t = completeKeyExp { st with w := w }) ∨
      (st.seq ≠ .keyexp ∧ ∃ s, t = completeBlock { st with s := s }) := by
  rcases engineStep_cases hs h with ⟨hq, hk⟩ | ⟨hq, he⟩ | ⟨hq, hd⟩
  · obtain ⟨-, -, ⟨-, ht⟩ | ⟨-, ht⟩⟩ := stepKeyExp_cases hk
    · exact .inr (.inl ⟨hq, _, ht⟩)
    · exact .inl ⟨_, _, _, ht⟩
  · obtain ⟨-, -, ⟨-, ht⟩ | ⟨-, ht⟩⟩ := stepEnc_cases he
    · exact .inr (.inr ⟨by simp [hq], _, ht⟩)
    · exact .inl ⟨_, _, _, ht⟩
  · obtain ⟨-, ⟨-, ht⟩ | ⟨-, ht⟩⟩ := stepDec_cases hd
    · exact .inr (.inr ⟨by simp [hq], _, ht⟩)
    · exact .inl ⟨_, _, _, ht⟩

end Sys2Proof.Machine
end

section
/-! The statements of 44_block_cipher_commands settled: completion (R229), NOP (R221), the illegal words (R225) and the
issue case by case (R220). -/

open Sys2Proof Sys2Proof.Machine

/-- Settles O22: a step that only makes progress keeps SEQ, so a step that ends IDLE is one of the two completions. -/
theorem completionIsOneStep : Obligations.CompletionIsOneStep := by
  unfold Obligations.CompletionIsOneStep
  intro st t hs h
  rcases engineStep_progress_or_completes hs h with ⟨w, s, r, rfl⟩ | ⟨hkey, w, rfl⟩ | ⟨hblock, s, rfl⟩
  · exact ⟨fun _ => ⟨rfl, rfl, rfl, rfl, rfl⟩, fun hidle => absurd hidle hs⟩
  · exact ⟨fun hrun => absurd rfl hrun,
      fun _ => ⟨rfl, rfl, rfl, fun _ => ⟨rfl, rfl⟩, fun hne => absurd hkey hne⟩⟩
  · exact ⟨fun hrun => absurd rfl hrun,
      fun _ => ⟨rfl, rfl, rfl, fun hq => absurd hq hblock, fun _ => ⟨rfl, rfl⟩⟩⟩

/-- Settles O5: NOP has no effect behind the BUSY gate, and `decode_of_op_zero` reads every word with OP = 0 as one. -/
theorem nopChangesNothing : Obligations.NopChangesNothing := by
  unfold Obligations.NopChangesNothing
  refine ⟨fun a b c st => ⟨fun hidle => ?_, exec_busy _⟩, fun v hop => ⟨_, _, _, decode_of_op_zero hop⟩⟩
  rw [exec_nop, whileIdle_idle _ hidle]

/-- Settles O6: both illegal rows are the report of ILLEGAL_CMD behind the BUSY gate, and the decoder's lemmas say which
words are theirs. -/
theorem illegalWordIsReported : Obligations.IllegalWordIsReported := by
  unfold Obligations.IllegalWordIsReported
  refine ⟨fun op a b c st => ⟨fun hidle => ?_, fun hbusy => ⟨exec_busy _ hbusy, exec_busy _ hbusy⟩⟩, fun v =>
    ⟨fun h2 => ⟨_, _, _, _, decode_of_reserved_op h2⟩, fun hlo hhi hrsv =>
      ⟨_, _, _, _, decode_of_reserved_bits (by omega) (by omega) hrsv⟩⟩⟩
  rw [exec_illegalReservedOp, exec_illegalReservedBits, whileIdle_idle _ hidle]
  exact ⟨rfl, rfl⟩

/-- Settles O7: `exec_busy` for the BUSY gate, `memWrite_cmd` for the write, and one equation for the issue of each
row. -/
theorem issueFollowsItsCases : Obligations.IssueFollowsItsCases := by
  unfold Obligations.IssueFollowsItsCases
  refine fun v st => ⟨exec_busy _, fun _ hr => memWrite_cmd v hr, fun hidle => ?_⟩
  cases decode v with
  | nop => exact (exec_nop ..).trans (whileIdle_idle _ hidle)
  | illegalReservedOp => exact (exec_illegalReservedOp ..).trans (whileIdle_idle _ hidle)
  | illegalReservedBits => exact (exec_illegalReservedBits ..).trans (whileIdle_idle _ hidle)
  | keyExpand len =>
    rw [exec_keyExpand, whileIdle_idle _ hidle, issueKeyExpand_eq]
    rfl
  | encryptBlock len =>
    rw [exec_encryptBlock, whileIdle_idle _ hidle, issueBlock_eq]
    rfl
  | decryptBlock len =>
    rw [exec_decryptBlock, whileIdle_idle _ hidle, issueBlock_eq]
    rfl

end

section
/-! The facts under the statements of 45_host_message_layer: the bytes of blocks joined and of a string split into
blocks, and the check of the padding at the end of `decrypt` (45 R261 to R263). -/

namespace Sys2Proof.Machine

/-! ### Blocks and their bytes -/

@[simp] theorem joinBlocks_cons (b : Block) (bs : List Block) : joinBlocks (b :: bs) = b.toList ++ joinBlocks bs := rfl

@[simp] theorem joinBlocks_length (bs : List Block) : (joinBlocks bs).length = 16 * bs.length := by
  induction bs with
  | nil => rfl
  | cons b bs ih => simp only [joinBlocks_cons, List.length_append, Vector.length_toList, List.length_cons, ih]; omega

theorem take_drop_joinBlocks (bs : List Block) (j : Nat) (h : j < bs.length) :
    ((joinBlocks bs).drop (16 * j)).take 16 = bs[j].toList := by
  induction bs generalizing j with
  | nil => exact absurd h (Nat.not_lt_zero j)
  | cons b bs ih =>
    cases j with
    | zero => simp
    | succ j =>
      have hdrop : (joinBlocks (b :: bs)).drop (16 * (j + 1)) = (joinBlocks bs).drop (16 * j) := by
        simp [Nat.mul_succ, Nat.add_comm, List.drop_append]
      rw [hdrop, ih j (Nat.lt_of_succ_lt_succ h), List.getElem_cons_succ]

/-- A block looks at the first 16 bytes only. -/
theorem blockOf_take (l : List Byte) : blockOf (l.take 16) = blockOf l := by
  unfold blockOf
  congr 1
  funext k
  rw [List.getElem?_take_of_lt k.isLt]

@[simp] theorem splitBlocks_length (l : List Byte) : (splitBlocks l).length = l.length / 16 := by simp [splitBlocks]

@[simp] theorem splitBlocks_getElem (l : List Byte) (j : Nat) (h : j < (splitBlocks l).length) :
    (splitBlocks l)[j] = blockOf (l.drop (16 * j)) := by simp [splitBlocks]

/-! ### Padding and its check -/

theorem pad_length (m : List Byte) : (pad m).length = 16 * (m.length / 16 + 1) := by
  simp only [pad, padLength, List.length_append, List.length_replicate]
  omega

/-- The concatenation O of `decrypt`: each block of C deciphered on its own (45 R263). -/
def decipheredBytes (w : Schedule) (c : List Byte) : List Byte :=
  joinBlocks ((splitBlocks c).map fun b => invCipher b w)

theorem messageDecrypt_badLength (w : Schedule) {c : List Byte} (h : c.length = 0 ∨ c.length % 16 ≠ 0) :
    messageDecrypt w c = .error .invalidInputLength := if_pos h

theorem messageDecrypt_goodLength (w : Schedule) {c : List Byte} (h0 : c.length ≠ 0) (h16 : c.length % 16 = 0) :
    messageDecrypt w c = unpad (decipheredBytes w c) := if_neg (by simp [h0, h16])

theorem decipheredBytes_length (w : Schedule) {c : List Byte} (h16 : c.length % 16 = 0) :
    (decipheredBytes w c).length = c.length := by
  simp only [decipheredBytes, joinBlocks_length, List.length_map, splitBlocks_length]
  omega

theorem take_drop_decipheredBytes (w : Schedule) {c : List Byte} {j : Nat} (h : j < c.length / 16) :
    ((decipheredBytes w c).drop (16 * j)).take 16 = (invCipher (blockOf ((c.drop (16 * j)).take 16)) w).toList := by
  rw [decipheredBytes, take_drop_joinBlocks _ j (by simpa using h), blockOf_take, List.getElem_map,
    splitBlocks_getElem]

theorem unpad_badFinalByte {o : List Byte} {p : Byte} (hp : o[o.length - 1]? = some p)
    (h : p.toNat = 0 ∨ 16 < p.toNat) : unpad o = .error .invalidPadding := by
  simp only [unpad, List.getLast?_eq_getElem?, hp, Option.getD_some, if_pos h]

theorem unpad_goodFinalByte {o : List Byte} {p : Byte} (hp : o[o.length - 1]? = some p) (h1 : 1 ≤ p.toNat)
    (h16 : p.toNat ≤ 16) :
    unpad o = if (o.drop (o.length - p.toNat)).all (fun b => b.toNat == p.toNat)
      then .ok (o.take (o.length - p.toNat)) else .error .invalidPadding := by
  have hrange : ¬ (p.toNat = 0 ∨ 16 < p.toNat) := by omega
  simp only [unpad, List.getLast?_eq_getElem?, hp, Option.getD_some, if_neg hrange]

/-- The comparison of the trailing p bytes, byte t counted from the end. -/
theorem all_drop_eq_iff {o : List Byte} {p : Byte} (hp : p.toNat ≤ o.length) :
    (o.drop (o.length - p.toNat)).all (fun b => b.toNat == p.toNat) = true ↔
      ∀ t, 1 ≤ t → t ≤ p.toNat → o[o.length - t]? = some p := by
  simp only [List.all_eq_true, beq_iff_eq, BitVec.toNat_inj]
  constructor
  · intro h t h1 ht
    have hlt : o.length - t < o.length := by omega
    have hmem : o[o.length - t] ∈ o.drop (o.length - p.toNat) :=
      List.mem_drop_iff_getElem.2 ⟨p.toNat - t, by omega, by congr 1; omega⟩
    rw [List.getElem?_eq_getElem hlt, h _ hmem]
  · intro h b hb
    obtain ⟨i, hi, rfl⟩ := List.mem_drop_iff_getElem.1 hb
    have ht := h (p.toNat - i) (by omega) (by omega)
    rw [show o.length - (p.toNat - i) = o.length - p.toNat + i by omega] at ht
    exact (List.getElem_eq_iff _).2 ht

end Sys2Proof.Machine
end

section
/-! The statements of 45_host_message_layer settled: the padding rule (R261) and the checks of decrypt (R263). -/

open Sys2Proof Sys2Proof.Machine

/-- Settles O54: `pad` appends `padLength` bytes by definition, and `pad_length` gives both facts about the length. -/
theorem paddingRule : Obligations.PaddingRule := by
  unfold Obligations.PaddingRule
  intro m
  have hlen := pad_length m
  exact ⟨padLength m.length, rfl, by unfold padLength; omega, by unfold padLength; omega, rfl, hlen, by omega⟩

/-- Settles O55: O is `decipheredBytes`; one lemma for each outcome of `unpad`'s range check, and `all_drop_eq_iff`
reads its comparison of the trailing bytes from the end. -/
theorem messageDecryptChecks : Obligations.MessageDecryptChecks := by
  unfold Obligations.MessageDecryptChecks
  refine fun w c => ⟨messageDecrypt_badLength w, fun h0 h16 => ?_⟩
  have hlen := decipheredBytes_length w h16
  rw [messageDecrypt_goodLength w h0 h16]
  refine ⟨decipheredBytes w c, hlen, fun j => take_drop_decipheredBytes w, ?_⟩
  obtain ⟨p, hp⟩ : ∃ p, (decipheredBytes w c)[(decipheredBytes w c).length - 1]? = some p :=
    ⟨_, List.getElem?_eq_getElem (by omega)⟩
  refine ⟨p, hp, unpad_badFinalByte hp, fun hlo hhi => ?_⟩
  have htrail := all_drop_eq_iff (o := decipheredBytes w c) (p := p) (by omega)
  rw [unpad_goodFinalByte hp hlo hhi]
  exact ⟨fun ⟨t, h1, ht, hne⟩ => if_neg fun hall => hne (htrail.1 hall t h1 ht), fun heq => if_pos (htrail.2 heq)⟩

end

section
/-! The facts under the statements of 60_exceptions: ERR after an issue (60 R283), and the two outcomes of a non-NOP
issue, rejected or accepted (60 R282). -/

namespace Sys2Proof.Machine

/-- ERR after an issue is the code of its first failing check, and 0 after a start (60 R283). -/
theorem issueOutcome_err (failed : Option CmdError) (op : BitVec 3) (st : State) :
    (failed.elim (startCommand op st) (reportCmdError · st)).err = failed.elim 0 CmdError.code := by
  cases failed with
  | none => exact startCommand_err op st
  | some e => exact reportCmdError_err e st

/-- A block command's issue is the report of an error, or it leaves ERR 0 when its start does (60 R282). -/
theorem issueBlock_rejected_or_err_zero {start : State → State} (len : BitVec 8) {st : State}
    (hstart : (start st).err = 0) :
    (∃ e, issueBlock start len st = reportCmdError e st) ∨ (issueBlock start len st).err = 0 := by
  obtain he | ⟨-, hs⟩ := issueBlock_cases start len st
  · exact .inl he
  · exact .inr (hs ▸ hstart)

/-- The issue of a non-NOP command is the report of an error, or it leaves ERR 0 (60 R282). -/
theorem exec_rejected_or_err_zero {i : Instr} {st t : State} (hidle : st.busy = false)
    (hnop : ∀ a b c, i ≠ .nop a b c) (h : exec i st = .next t) : (∃ e, t = reportCmdError e st) ∨ t.err = 0 := by
  cases i with
  | nop a b c => exact absurd rfl (hnop a b c)
  | illegalReservedOp =>
    rw [exec_illegalReservedOp, whileIdle_idle _ hidle] at h
    cases h
    exact .inl ⟨_, rfl⟩
  | illegalReservedBits =>
    rw [exec_illegalReservedBits, whileIdle_idle _ hidle] at h
    cases h
    exact .inl ⟨_, rfl⟩
  | keyExpand len =>
    rw [exec_keyExpand, whileIdle_idle _ hidle] at h
    cases h
    obtain he | hs := issueKeyExpand_cases len st
    · exact .inl he
    · exact .inr (hs ▸ startKeyExp_err st)
  | encryptBlock len =>
    rw [exec_encryptBlock, whileIdle_idle _ hidle] at h
    cases h
    exact issueBlock_rejected_or_err_zero len (startEnc_err st)
  | decryptBlock len =>
    rw [exec_decryptBlock, whileIdle_idle _ hidle] at h
    cases h
    exact issueBlock_rejected_or_err_zero len (startDec_err st)

end Sys2Proof.Machine
end

section
/-! The statements of 60_exceptions settled: the code an issue reports (R283) and the whole effect of a rejected issue
(R282). -/

open Sys2Proof Sys2Proof.Machine

/-- Settles O12: `exec_decode_issue` gives the outcome of the issue, and `issueError_code` the code of its first failing
check as a number. -/
theorem issueReportsFirstFailingCheck : Obligations.IssueReportsFirstFailingCheck := by
  unfold Obligations.IssueReportsFirstFailingCheck
  intro v st hidle hop
  refine ⟨_, exec_decode_issue hidle (mt (fieldOp_eq_zero_iff v).1 hop), ?_⟩
  exact (issueOutcome_err _ _ st).trans (issueError_code v st.keyValid)

/-- Settles O13: an issue that leaves ERR nonzero was rejected, and `reportCmdError` writes the three STATUS fields
alone. -/
theorem rejectedIssueChangesOnlyStatus : Obligations.RejectedIssueChangesOnlyStatus := by
  unfold Obligations.RejectedIssueChangesOnlyStatus
  intro i st t hidle hnop h herr
  obtain ⟨e, rfl⟩ | hzero := exec_rejected_or_err_zero hidle hnop h
  · exact ⟨rfl, (reportCmdError_busy e st).trans hidle⟩
  · exact absurd hzero herr

end

section
/-! The facts under the statements that decoding and encoding undo each other: the decoder on a word packed from its
four fields, and a word packed again from its own (30 R100, R104). -/

namespace Sys2Proof.Machine

open Sys2Proof.Laws

/-- The decoder's checks on a packed word look at the fields it was packed from (30 R104). -/
theorem decode_packCommand (op : BitVec 3) (rsv0 : BitVec 5) (len : BitVec 8) (rsv1 : BitVec 16) :
    decode (packCommand op rsv0 len rsv1) =
      if op = 0 then .nop rsv0 len rsv1
      else if op.getLsbD 2 then .illegalReservedOp op rsv0 len rsv1
      else if rsv0 ≠ 0 ∨ rsv1 ≠ 0 then .illegalReservedBits op rsv0 len rsv1
      else if op = 1 then .keyExpand len
      else if op = 2 then .encryptBlock len
      else .decryptBlock len := by
  simp only [decode, fieldOp_packCommand, fieldRsv0_packCommand, fieldLen_packCommand, fieldRsv1_packCommand]

/-- The four fields of a word are all of its bits (30 R100). -/
theorem packCommand_fields (v : Word) : packCommand (fieldOp v) (fieldRsv0 v) (fieldLen v) (fieldRsv1 v) = v := by
  have join {i k m n : Nat} (h : k = i + m) : v.extractLsb' k n ++ v.extractLsb' i m = v.extractLsb' i (n + m) :=
    BitVec.extractLsb'_append_extractLsb'_eq_extractLsb' h
  rw [packCommand, fieldOp, fieldRsv0, fieldLen, fieldRsv1, join (by rfl), join (by rfl), join (by rfl),
    BitVec.extractLsb'_eq_self]

/-- An OP that the decoder's first two checks let pass is an operation (30 R101). -/
theorem isOperation_of_checks : ∀ op : BitVec 3, op ≠ 0 → op.getLsbD 2 = false → isOperation op = true := by decide

/-- A reserved OP is not 0. -/
theorem ne_zero_of_isReservedOp {op : BitVec 3} (h : isReservedOp op = true) : op ≠ 0 := by
  rintro rfl
  exact absurd h (by decide)

/-- An operation passes the decoder's first two checks. -/
theorem checks_of_isOperation : ∀ op : BitVec 3, isOperation op = true → op ≠ 0 ∧ op.getLsbD 2 = false := by decide

/-- The decryption is the operation that is left after the other two. -/
theorem eq_three_of_checks : ∀ op : BitVec 3, op ≠ 0 → op.getLsbD 2 = false → op ≠ 1 → op ≠ 2 → op = 3 := by decide

end Sys2Proof.Machine
end

section
/-! The statements of 30_encoding settled: decoding and encoding undo each other, both ways, and the words of the
spec's table (95 section 6.1). -/

open Sys2Proof Sys2Proof.Machine

/-- Settles O1: `decode_packCommand` runs the decoder's checks on the instruction's own fields, which pass them because
the instruction is well-formed. -/
theorem decodeEncodeRoundTrip : Obligations.DecodeEncodeRoundTrip := by
  unfold Obligations.DecodeEncodeRoundTrip
  intro i hwf
  cases i with
  | nop rsv0 len rsv1 => rw [encode, decode_packCommand, if_pos rfl]
  | illegalReservedOp op rsv0 len rsv1 =>
    have h2 : op.getLsbD 2 = true := hwf
    rw [encode, decode_packCommand, if_neg (ne_zero_of_isReservedOp hwf), if_pos h2]
  | keyExpand len => rw [encode, decode_packCommand]; rfl
  | encryptBlock len => rw [encode, decode_packCommand]; rfl
  | decryptBlock len => rw [encode, decode_packCommand]; rfl
  | illegalReservedBits op rsv0 len rsv1 =>
    simp only [Instr.wf, Bool.and_eq_true, Bool.or_eq_true, bne_iff_ne] at hwf
    obtain ⟨hop, hrsv⟩ := hwf
    obtain ⟨h0, h2⟩ := checks_of_isOperation op hop
    rw [encode, decode_packCommand, if_neg h0, if_neg (by rw [h2]; decide), if_pos hrsv]

/-- Settles O2: at each outcome of the decoder the checks it has passed make the instruction well-formed and fix the
fields that its constructor does not keep, so `packCommand_fields` gives the word back. -/
theorem encodeDecodeIsIdentity : Obligations.EncodeDecodeIsIdentity := by
  unfold Obligations.EncodeDecodeIsIdentity
  intro v
  have hpack := packCommand_fields v
  unfold decode
  by_cases h0 : fieldOp v = 0
  · rw [if_pos h0]
    exact ⟨rfl, by rw [encode, ← h0, hpack]⟩
  rw [if_neg h0]
  by_cases h2 : (fieldOp v).getLsbD 2 = true
  · rw [if_pos h2]
    exact ⟨h2, hpack⟩
  rw [if_neg h2]
  rw [Bool.not_eq_true] at h2
  by_cases hrsv : fieldRsv0 v ≠ 0 ∨ fieldRsv1 v ≠ 0
  · rw [if_pos hrsv]
    exact ⟨by simpa [Instr.wf, isOperation_of_checks _ h0 h2] using hrsv, hpack⟩
  rw [if_neg hrsv]
  obtain ⟨hrsv0, hrsv1⟩ : fieldRsv0 v = 0 ∧ fieldRsv1 v = 0 := by simpa only [not_or, not_not] using hrsv
  by_cases h1 : fieldOp v = 1
  · rw [if_pos h1]
    exact ⟨rfl, by rw [encode, ← hrsv0, ← hrsv1, ← h1, hpack]⟩
  rw [if_neg h1]
  by_cases hop2 : fieldOp v = 2
  · rw [if_pos hop2]
    exact ⟨rfl, by rw [encode, ← hrsv0, ← hrsv1, ← hop2, hpack]⟩
  · rw [if_neg hop2]
    exact ⟨rfl, by rw [encode, ← eq_three_of_checks _ h0 h2 h1 hop2]; nth_rw 1 [← hrsv0]; rw [← hrsv1, hpack]⟩

/-- Settles O3: the decoder run on the six words. -/
theorem specWordsDecode : Obligations.SpecWordsDecode := by
  unfold Obligations.SpecWordsDecode
  decide

end

section
/-! The facts under the statements about the machine as a whole: the sequencer's turn, the effect of any step on the
engine, and what each of these effects does to the invariant (10 section 3). -/

namespace Sys2Proof.Machine

/-! ### The sequencer's turn -/

/-- Everything the sequencer's turn does: nothing in reset or while idle, the next word of an expansion, or the next
state of a block command; RND moves on, or the command completes (44 R228, R229; 70 R312). -/
theorem engineTurn_effect {st t : State} (h : engineTurn st = .next t) :
    ((st.resetIn = true ∨ st.seq = .idle) ∧ t = st) ∨
      (st.resetIn = false ∧ st.seq = .keyexp ∧
        ∃ w, (∃ r, t = { st with w := w, rnd := r }) ∨ t = completeKeyExp { st with w := w }) ∨
      (st.resetIn = false ∧ (st.seq = .enc ∨ st.seq = .dec) ∧
        ∃ m, (∃ r, t = { st with s := m, rnd := r }) ∨ t = completeBlock { st with s := m }) := by
  rcases engineTurn_cases h with hstay | ⟨hr, ⟨hq, hs⟩ | ⟨hq, hs⟩ | ⟨hq, hs⟩⟩
  · exact .inl hstay
  · obtain ⟨-, -, ⟨-, ht⟩ | ⟨-, ht⟩⟩ := stepKeyExp_cases hs
    · exact .inr (.inl ⟨hr, hq, _, .inr ht⟩)
    · exact .inr (.inl ⟨hr, hq, _, .inl ⟨_, ht⟩⟩)
  · obtain ⟨-, -, ⟨-, ht⟩ | ⟨-, ht⟩⟩ := stepEnc_cases hs
    · exact .inr (.inr ⟨hr, .inl hq, _, .inr ht⟩)
    · exact .inr (.inr ⟨hr, .inl hq, _, .inl ⟨_, ht⟩⟩)
  · obtain ⟨-, ⟨-, ht⟩ | ⟨-, ht⟩⟩ := stepDec_cases hs
    · exact .inr (.inr ⟨hr, .inr hq, _, .inr ht⟩)
    · exact .inr (.inr ⟨hr, .inr hq, _, .inl ⟨_, ht⟩⟩)

/-! ### The effect of a step on the engine -/

/-- The state with the host, the schedule and `readData` replaced, none of which the engine looks at. -/
def withOutside (st : State) (ag : HostAgent) (turns : List Turn) (d : Word) : State :=
  { st with host := ag, schedule := turns, readData := d }

@[simp] theorem withOutside_done (st : State) (ag turns d) : (withOutside st ag turns d).done = st.done := rfl
@[simp] theorem withOutside_keyValid (st : State) (ag turns d) :
    (withOutside st ag turns d).keyValid = st.keyValid := rfl
@[simp] theorem withOutside_drop (st : State) (ag turns d) : (withOutside st ag turns d).drop = st.drop := rfl
@[simp] theorem withOutside_err (st : State) (ag turns d) : (withOutside st ag turns d).err = st.err := rfl
@[simp] theorem withOutside_key (st : State) (ag turns d) : (withOutside st ag turns d).key = st.key := rfl
@[simp] theorem withOutside_din (st : State) (ag turns d) : (withOutside st ag turns d).din = st.din := rfl
@[simp] theorem withOutside_dout (st : State) (ag turns d) : (withOutside st ag turns d).dout = st.dout := rfl
@[simp] theorem withOutside_w (st : State) (ag turns d) : (withOutside st ag turns d).w = st.w := rfl
@[simp] theorem withOutside_s (st : State) (ag turns d) : (withOutside st ag turns d).s = st.s := rfl
@[simp] theorem withOutside_seq (st : State) (ag turns d) : (withOutside st ag turns d).seq = st.seq := rfl
@[simp] theorem withOutside_rnd (st : State) (ag turns d) : (withOutside st ag turns d).rnd = st.rnd := rfl
@[simp] theorem withOutside_resetIn (st : State) (ag turns d) :
    (withOutside st ag turns d).resetIn = st.resetIn := rfl
@[simp] theorem withOutside_busy (st : State) (ag turns d) : (withOutside st ag turns d).busy = st.busy := rfl

/-- Taking the turn off the schedule changes the schedule alone. -/
theorem nextTurn_eq_withOutside (st : State) :
    (nextTurn st).2 = withOutside st st.host (nextTurn st).2.schedule st.readData := by
  unfold nextTurn
  split <;> rfl

/-- What the write of a step's turn does to the engine, from the state x that it meets: nothing, the drop of 20 R84, the
effect of a write to KEY or DIN, or the outcome of an issue (20 R76; 44 R220). -/
inductive WriteEffect (st x : State) : State → Prop where
  /-- no register takes the write, or the word written to CMD is a NOP -/
  | none : WriteEffect st x x
  /-- BUSY is 1 and the write is ignored -/
  | dropped (hb : st.busy = true) : WriteEffect st x x.setDrop
  /-- a word of KEY -/
  | key (k : Block) (hb : st.busy = false) (off : Nat) (v : Word) (hw : st.writes off v)
      (hoff : 0x10 ≤ off ∧ off < 0x20) : WriteEffect st x { x with key := k }
  /-- a word of DIN -/
  | din (b : Block) (hb : st.busy = false) (off : Nat) (v : Word) (hw : st.writes off v)
      (hoff : 0x20 ≤ off ∧ off < 0x30) : WriteEffect st x { x with din := b }
  /-- an issue rejected -/
  | rejected (e : CmdError) (v : Word) (hi : st.issues v) : WriteEffect st x (reportCmdError e x)
  /-- an issue accepted -/
  | started (v : Word) (hi : st.issues v) (hkey : fieldOp v ≠ 1 → st.keyValid = true) :
      WriteEffect st x (startCommand (fieldOp v) x)

/-- An accepted command other than KEY_EXPAND has a key (60 R283). -/
theorem keyValid_of_issueError_none {v : Word} {keyValid : Bool} (h : issueError v keyValid = none)
    (hop : fieldOp v ≠ 1) : keyValid = true := by
  rw [← Bool.not_eq_false]
  intro hk
  unfold issueError at h
  split at h
  · cases h
  · rw [if_pos ⟨hop, hk⟩] at h
    cases h

/-- The word written to CMD while BUSY is 0 has the effect of its issue (44 R220; 60 R283). -/
theorem WriteEffect.of_exec {st x t : State} {v : Word} (hw : st.writes 0 v) (hb : st.busy = false)
    (hbx : x.busy = false) (hkx : x.keyValid = st.keyValid) (h : exec (decode v) x = .next t) :
    WriteEffect st x t := by
  by_cases hop : fieldOp v = 0
  · rw [exec_decode_nop hbx hop] at h
    cases h
    exact .none
  · rw [exec_decode_issue hbx hop, hkx] at h
    cases h
    cases he : issueError v st.keyValid with
    | none => exact .started v ⟨hw, hb, hop⟩ (keyValid_of_issueError_none he)
    | some e => exact .rejected e v ⟨hw, hb, hop⟩

/-- Everything a write to a register of the window does to the engine (20 R76, R84). -/
theorem WriteEffect.of_writeRegister {st x t : State} {off : Nat} {v : Word} (hw : st.writes off v) (h4 : off % 4 = 0)
    (hlt : off < 64) (hbx : x.busy = st.busy) (hkx : x.keyValid = st.keyValid)
    (h : writeRegister (BitVec.ofNat 6 off) v x = .next t) : WriteEffect st x t := by
  rcases writeRegister_offset_cases h4 hlt h with
    ⟨-, rfl⟩ | ⟨-, hb, rfl⟩ | ⟨rfl, hb, hex⟩ | ⟨hoff, hb, k, rfl⟩ | ⟨hoff, hb, b, rfl⟩
  · exact .none
  · exact .dropped (hbx ▸ hb)
  · exact .of_exec hw (hbx ▸ hb) hb hkx hex
  · exact .key k (hbx ▸ hb) off v hw hoff
  · exact .din b (hbx ▸ hb) off v hw hoff

/-- Everything a step does to the engine: the sequencer's turn, the effect of the write its turn makes, nothing, or a
change of the reset input; x is the state up to the host, the schedule and `readData`. -/
theorem step_effect {st t : State} (h : step st = .next t) :
    ∃ ag turns d, (st.turn = .engine ∧ engineTurn (withOutside st ag turns d) = .next t) ∨
      (st.resetIn = false ∧ WriteEffect st (withOutside st ag turns d) t) ∨
      t = withOutside st ag turns d ∨
      (st.turn = .assertReset ∧ t = assertReset (withOutside st ag turns d)) ∨
      (st.turn = .releaseReset ∧ t = releaseReset (withOutside st ag turns d)) := by
  have hx := nextTurn_eq_withOutside st
  rcases step_cases h with ⟨he, hs⟩ | ⟨off, v, ag, hw, h4, hlt, hr, hreg⟩ | ⟨-, ag, d, rfl⟩ | ⟨ha, rfl⟩ | ⟨hr, rfl⟩
  · exact ⟨_, _, _, .inl ⟨he, hx ▸ hs⟩⟩
  · have hxag : withHost (nextTurn st).2 ag = withOutside st ag (nextTurn st).2.schedule st.readData :=
      congrArg (withHost · ag) hx
    have heff := WriteEffect.of_writeRegister hw h4 hlt (by simp) (by simp) hreg
    exact ⟨_, _, _, .inr (.inl ⟨hr, hxag ▸ heff⟩)⟩
  · exact ⟨ag, _, d, .inr (.inr (.inl (congrArg (fun x => { withHost x ag with readData := d }) hx)))⟩
  · exact ⟨_, _, _, .inr (.inr (.inr (.inl ⟨ha, congrArg _ hx⟩)))⟩
  · exact ⟨_, _, _, .inr (.inr (.inr (.inr ⟨hr, congrArg _ hx⟩)))⟩

/-- A step whose turn is the sequencer's takes it. -/
theorem step_of_engine {st t : State} (h : step st = .next t) (he : st.turn = .engine) :
    engineTurn (nextTurn st).2 = .next t := by
  obtain ⟨-, hrun⟩ := step_next h
  rwa [show (nextTurn st).1 = .engine from he] at hrun

/-- A start of a block command changes DONE, DROP, ERR, S, RND and SEQ alone (44 R223, R224). -/
theorem startCommand_block {op : BitVec 3} (hop : op ≠ 1) :
    startCommand op = startEnc ∨ startCommand op = startDec := by
  unfold startCommand
  rw [if_neg hop]
  split_ifs <;> simp

theorem startCommand_one : startCommand 1 = startKeyExp := rfl

@[simp] theorem startCommand_done (op : BitVec 3) (st : State) : (startCommand op st).done = false := by
  obtain h | h | h := startCommand_cases op <;> simp [h]
@[simp] theorem startCommand_key (op : BitVec 3) (st : State) : (startCommand op st).key = st.key := by
  obtain h | h | h := startCommand_cases op <;> simp [h]
@[simp] theorem startCommand_din (op : BitVec 3) (st : State) : (startCommand op st).din = st.din := by
  obtain h | h | h := startCommand_cases op <;> simp [h]
@[simp] theorem startCommand_dout (op : BitVec 3) (st : State) : (startCommand op st).dout = st.dout := by
  obtain h | h | h := startCommand_cases op <;> simp [h]

/-! ### What a running command holds -/

/-- What a running command has computed so far: where RND stands, and the words below it or the state before its round
(44 R228). -/
structure State.Progress (st : State) : Prop where
  keyexp : st.seq = .keyexp → 4 ≤ st.rnd.toNat ∧ st.rnd.toNat ≤ 43 ∧
    ∀ i, i < st.rnd.toNat → schedWord st.w i = schedWord (keyExpansion st.key) i
  enc : st.seq = .enc → 1 ≤ st.rnd.toNat ∧ st.rnd.toNat ≤ 10 ∧ st.s = encAfter st.w st.din (st.rnd.toNat - 1)
  dec : st.seq = .dec → st.rnd.toNat ≤ 9 ∧ st.s = decAfter st.w st.din (9 - st.rnd.toNat)

/-- The invariant holds what a running command has computed so far. -/
theorem State.Inv.progress {st : State} (h : st.Inv) : st.Progress where
  keyexp hq := have ⟨hlo, hhi, _, hw⟩ := h.keyexp hq; ⟨hlo, hhi, hw⟩
  enc hq := have ⟨hlo, hhi, _, hs⟩ := h.enc hq; ⟨hlo, hhi, hs⟩
  dec hq := have ⟨hhi, _, hs⟩ := h.dec hq; ⟨hhi, hs⟩

/-- One more word computed keeps the words below RND those of the expansion (42 R172). -/
theorem expandWord_keyExpansion {w : Schedule} {k : Block} {n : Nat} (hlo : 4 ≤ n) (hhi : n ≤ 43)
    (h : ∀ i, i < n → schedWord w i = schedWord (keyExpansion k) i) :
    ∀ i, i < n + 1 → schedWord (expandWord w n) i = schedWord (keyExpansion k) i := by
  intro i hi
  rw [schedWord_expandWord w n i (by omega)]
  split_ifs with hin
  · rw [hin, schedWord_keyExpansion k hlo hhi, nextWord_congr (by omega) h]
  · exact h i (by omega)

/-- The last word completes the expansion (42 R176). -/
theorem expandWord_last_eq_keyExpansion {w : Schedule} {k : Block}
    (h : ∀ i, i < 43 → schedWord w i = schedWord (keyExpansion k) i) : expandWord w 43 = keyExpansion k :=
  schedule_ext (expandWord_keyExpansion (by decide) (by decide) h)

/-- Words 0 to 3 of KEY_EXPAND's issue are those of the expansion (44 R222). -/
theorem loadKeyWords_keyExpansion (w : Schedule) (k : Block) :
    ∀ i, i < 4 → schedWord (loadKeyWords w k) i = schedWord (keyExpansion k) i := by
  intro i hi
  rw [schedWord_loadKeyWords w k i (by omega), if_pos hi, schedWord_keyExpansion_lt k hi]

/-- A round of the encryption moves the state before round n to the state before round n + 1. -/
theorem encRound_encAfter (w : Schedule) (b : Block) {n : Nat} (h : 1 ≤ n) :
    encRound w (encAfter w b (n - 1)) n = encAfter w b n := by
  obtain ⟨n, rfl⟩ := Nat.exists_eq_add_of_le' h
  rfl

/-- A round of the decryption with round key n moves the state on to the one before round key n - 1. -/
theorem decRound_decAfter (w : Schedule) (b : Block) {n : Nat} (h1 : 1 ≤ n) (h9 : n ≤ 9) :
    decRound w (decAfter w b (9 - n)) n = decAfter w b (9 - (n - 1)) := by
  rw [show 9 - (n - 1) = 9 - n + 1 by omega, decAfter, show 9 - (9 - n) = n by omega]

/-- The cipher is its final round after nine rounds (44 R226). -/
theorem cipher_eq (b : Block) (w : Schedule) : cipher b w = toBytes (encFinal w (encAfter w b 9)) := rfl

/-- The inverse cipher is its final round after nine rounds (44 R227). -/
theorem invCipher_eq (b : Block) (w : Schedule) : invCipher b w = toBytes (decFinal w (decAfter w b 9)) := rfl

/-! ### What the sequencer's turn does to it -/

/-- RND as a number after it has moved on by one, where it can. -/
theorem rnd_succ {r : BitVec 6} (h : r.toNat ≤ 43) : (r + 1).toNat = r.toNat + 1 := by
  rw [BitVec.toNat_add]
  simp
  omega

theorem rnd_pred {r : BitVec 6} (h : 0 < r.toNat) : (r - 1).toNat = r.toNat - 1 := by
  have := r.isLt
  rw [BitVec.toNat_sub]
  simp
  omega

/-- The command's result, published at its completion (44 R229): W and KEY_VALID, or DOUT; DONE, and SEQ back to IDLE. -/
def completed (st : State) : State :=
  match st.seq with
  | .idle => st
  | .keyexp => { st with w := keyExpansion st.key, keyValid := true, done := true, seq := .idle }
  | .enc => { st with dout := cipher st.din st.w, done := true, seq := .idle }
  | .dec => { st with dout := invCipher st.din st.w, done := true, seq := .idle }

/-- The number of sequencer steps to the end of the running command (10 R46). -/
def remaining (st : State) : Nat :=
  match st.seq with
  | .idle => 0
  | .keyexp => 44 - st.rnd.toNat
  | .enc => 11 - st.rnd.toNat
  | .dec => st.rnd.toNat + 1

/-! ### The sequencer's step at each place of RND (44 R228) -/

theorem engineStep_keyexp {st : State} (hq : st.seq = .keyexp) : engineStep st = stepKeyExp st := by
  rw [engineStep, hq]

theorem engineStep_enc {st : State} (hq : st.seq = .enc) : engineStep st = stepEnc st := by
  rw [engineStep, hq]

theorem engineStep_dec {st : State} (hq : st.seq = .dec) : engineStep st = stepDec st := by
  rw [engineStep, hq]

theorem engineTurn_of_released {st : State} (hr : st.resetIn = false) : engineTurn st = engineStep st := by
  simp [engineTurn, hr]

theorem stepKeyExp_more {st : State} (hlo : 4 ≤ st.rnd.toNat) (hhi : st.rnd.toNat < 43) :
    stepKeyExp st = .next { st with w := expandWord st.w st.rnd.toNat, rnd := st.rnd + 1 } := by
  rw [stepKeyExp, if_neg (by simp only [Config.lastWord]; omega), if_neg (by simp only [Config.lastWord]; omega)]

theorem stepKeyExp_last {st : State} (h : st.rnd.toNat = 43) :
    stepKeyExp st = .next (completeKeyExp { st with w := expandWord st.w 43 }) := by
  rw [stepKeyExp, if_neg (by simp only [Config.lastWord]; omega), if_pos h, h]

theorem stepEnc_more {st : State} (hlo : 1 ≤ st.rnd.toNat) (hhi : st.rnd.toNat < 10) :
    stepEnc st = .next { st with s := encRound st.w st.s st.rnd.toNat, rnd := st.rnd + 1 } := by
  rw [stepEnc, if_neg (by simp only [Config.rounds]; omega), if_neg (by simp only [Config.rounds]; omega)]

theorem stepEnc_last {st : State} (h : st.rnd.toNat = 10) :
    stepEnc st = .next (completeBlock { st with s := encFinal st.w st.s }) := by
  rw [stepEnc, if_neg (by simp only [Config.rounds]; omega), if_pos h]

theorem stepDec_more {st : State} (hlo : 0 < st.rnd.toNat) (hhi : st.rnd.toNat ≤ 9) :
    stepDec st = .next { st with s := decRound st.w st.s st.rnd.toNat, rnd := st.rnd - 1 } := by
  rw [stepDec, if_neg (by simp only [Config.rounds]; omega), if_neg (by omega)]

theorem stepDec_last {st : State} (h : st.rnd.toNat = 0) :
    stepDec st = .next (completeBlock { st with s := decFinal st.w st.s }) := by
  rw [stepDec, if_neg (by simp only [Config.rounds]; omega), if_pos h]

/-! ### A running command moves on, or completes with its result -/

/-- What the sequencer's turn makes of a running command: it moves on, its inputs and STATUS kept, or it completes with
its result; an expansion leaves S alone (44 R228, R229). -/
inductive TurnOutcome (st t : State) : Prop where
  | continues (hrem : remaining t + 1 = remaining st) (hw : st.seq ≠ .keyexp → t.w = st.w)
      (hs : st.seq = .keyexp → t.s = st.s) (ht : t = { st with w := t.w, s := t.s, rnd := t.rnd }) (hp : t.Progress)
  | completes (hrem : remaining st = 1) (hs : st.seq = .keyexp → t.s = st.s)
      (ht : t = { completed st with s := t.s, rnd := t.rnd })

/-- The turn of a running KEY_EXPAND (44 R228). -/
theorem stepKeyExp_outcome {st : State} (hp : st.Progress) (hq : st.seq = .keyexp) :
    ∃ t, stepKeyExp st = .next t ∧ TurnOutcome st t := by
  obtain ⟨hlo, hhi, hw⟩ := hp.keyexp hq
  by_cases hlast : st.rnd.toNat = 43
  · refine ⟨_, stepKeyExp_last hlast, .completes (by simp [remaining, hq, hlast]) (fun _ => rfl) ?_⟩
    rw [hlast] at hw
    simp [completed, hq, expandWord_last_eq_keyExpansion hw, completeKeyExp, State.setDone]
  · refine ⟨_, stepKeyExp_more hlo (by omega), .continues ?_ (fun h => absurd hq h) (fun _ => rfl) rfl ?_⟩
    · simp only [remaining, hq, rnd_succ hhi]
      omega
    · refine ⟨fun _ => ?_, fun h => ?_, fun h => ?_⟩
      · simp only [rnd_succ hhi]
        exact ⟨by omega, by omega, expandWord_keyExpansion hlo hhi hw⟩
      all_goals exact absurd (hq.symm.trans h) (by decide)

/-- The turn of a running ENCRYPT_BLOCK (44 R228). -/
theorem stepEnc_outcome {st : State} (hp : st.Progress) (hq : st.seq = .enc) :
    ∃ t, stepEnc st = .next t ∧ TurnOutcome st t := by
  obtain ⟨hlo, hhi, hs⟩ := hp.enc hq
  by_cases hlast : st.rnd.toNat = 10
  · refine ⟨_, stepEnc_last hlast, .completes (by simp [remaining, hq, hlast])
      (fun h => absurd (hq.symm.trans h) (by decide)) ?_⟩
    rw [hlast] at hs
    simp [completed, hq, cipher_eq, hs, completeBlock, State.setDone]
  · refine ⟨_, stepEnc_more hlo (by omega), .continues ?_ (fun _ => rfl)
      (fun h => absurd (hq.symm.trans h) (by decide)) rfl ?_⟩
    · simp only [remaining, hq, rnd_succ (Nat.le_trans hhi (by decide))]
      omega
    · refine ⟨fun h => ?_, fun _ => ?_, fun h => ?_⟩
      · exact absurd (hq.symm.trans h) (by decide)
      · simp only [rnd_succ (Nat.le_trans hhi (by decide))]
        exact ⟨by omega, by omega, by rw [hs, encRound_encAfter _ _ hlo, Nat.add_sub_cancel]⟩
      · exact absurd (hq.symm.trans h) (by decide)

/-- The turn of a running DECRYPT_BLOCK (44 R228). -/
theorem stepDec_outcome {st : State} (hp : st.Progress) (hq : st.seq = .dec) :
    ∃ t, stepDec st = .next t ∧ TurnOutcome st t := by
  obtain ⟨hhi, hs⟩ := hp.dec hq
  by_cases hlast : st.rnd.toNat = 0
  · refine ⟨_, stepDec_last hlast, .completes (by simp [remaining, hq, hlast])
      (fun h => absurd (hq.symm.trans h) (by decide)) ?_⟩
    rw [hlast] at hs
    simp [completed, hq, invCipher_eq, hs, completeBlock, State.setDone]
  · have hpos : 0 < st.rnd.toNat := by omega
    refine ⟨_, stepDec_more hpos hhi, .continues ?_ (fun _ => rfl)
      (fun h => absurd (hq.symm.trans h) (by decide)) rfl ?_⟩
    · simp only [remaining, hq, rnd_pred hpos]
      omega
    · refine ⟨fun h => ?_, fun h => ?_, fun _ => ?_⟩
      · exact absurd (hq.symm.trans h) (by decide)
      · exact absurd (hq.symm.trans h) (by decide)
      · simp only [rnd_pred hpos]
        exact ⟨by omega, by rw [hs, decRound_decAfter _ _ hpos hhi]⟩

/-- The sequencer's turn always answers while a command runs, and moves it on or completes it (44 R228, R229). -/
theorem engineTurn_outcome {st : State} (hp : st.Progress) (hr : st.resetIn = false) (hq : st.seq ≠ .idle) :
    ∃ t, engineTurn st = .next t ∧ TurnOutcome st t := by
  rw [engineTurn_of_released hr]
  cases h : st.seq with
  | idle => exact absurd h hq
  | keyexp => exact engineStep_keyexp h ▸ stepKeyExp_outcome hp h
  | enc => exact engineStep_enc h ▸ stepEnc_outcome hp h
  | dec => exact engineStep_dec h ▸ stepDec_outcome hp h

end Sys2Proof.Machine
end

section
/-! The facts under the statements about every step: what each effect of a step does to the invariant (10 section 3), and
which turns can stop the run (20 R73, R74; 93 items 2, 6 and 7). -/

namespace Sys2Proof.Machine

/-! ### The invariant -/

/-- The invariant speaks of the engine alone. -/
theorem State.Inv.withOutside {st : State} (h : st.Inv) (ag turns d) : (withOutside st ag turns d).Inv :=
  { h with in_reset := fun hr => congrArg (Machine.withOutside · ag turns d) (h.in_reset hr) }

theorem State.Inv.idle_of_resetIn {st : State} (h : st.Inv) (hr : st.resetIn = true) : st.seq = .idle :=
  (congrArg State.seq (h.in_reset hr)).symm

theorem State.Inv.released_of_running {st : State} (h : st.Inv) (hq : st.seq ≠ .idle) : st.resetIn = false := by
  rw [← Bool.not_eq_true]
  exact fun hr => hq (h.idle_of_resetIn hr)

theorem State.Inv.assertReset (st : State) : (assertReset st).Inv where
  err_legal := Nat.zero_le 4
  drop_err h := nomatch h
  done_err h := nomatch h
  busy_status h := absurd rfl h
  keyexp h := nomatch h
  enc h := nomatch h
  dec h := nomatch h
  key_valid h := nomatch h
  in_reset _ := rfl

/-- The dropped write of 20 R84 sets DROP while ERR is 0. -/
theorem State.Inv.setDrop {st : State} (h : st.Inv) (hr : st.resetIn = false) (hb : st.busy = true) : st.setDrop.Inv :=
  { h with
    drop_err := fun _ => (h.busy_status ((busy_true_iff st).1 hb)).1
    in_reset := fun hr' => absurd (hr.symm.trans hr') (by decide) }

/-- While idle no command looks at KEY or DIN. -/
theorem State.Inv.idle_inputs {st : State} (h : st.Inv) (hr : st.resetIn = false) (hb : st.busy = false) (k b : Block) :
    { st with key := k, din := b }.Inv :=
  have hidle : st.seq = .idle := (busy_false_iff st).1 hb
  { h with
    keyexp := fun hq => absurd (hidle.symm.trans hq) (by decide)
    enc := fun hq => absurd (hidle.symm.trans hq) (by decide)
    dec := fun hq => absurd (hidle.symm.trans hq) (by decide)
    in_reset := fun hr' => absurd (hr.symm.trans hr') (by decide) }

theorem CmdError.code_le (e : CmdError) : e.code.toNat ≤ 4 := by cases e <;> decide

/-- A rejected issue leaves one of the codes 1 to 4, with DONE and DROP 0 (60 R282). -/
theorem State.Inv.reportCmdError {st : State} (h : st.Inv) (hr : st.resetIn = false) (hb : st.busy = false)
    (e : CmdError) : (reportCmdError e st).Inv :=
  have hidle : st.seq = .idle := (busy_false_iff st).1 hb
  { h with
    err_legal := e.code_le
    drop_err := nofun
    done_err := nofun
    busy_status := fun hq => absurd hidle hq
    in_reset := fun hr' => absurd (hr.symm.trans hr') (by decide) }

theorem State.Inv.startKeyExp {st : State} (hr : st.resetIn = false) : (startKeyExp st).Inv where
  err_legal := Nat.zero_le 4
  drop_err _ := rfl
  done_err _ := rfl
  busy_status _ := ⟨rfl, rfl⟩
  keyexp _ := ⟨Nat.le_refl 4, by simp, rfl, loadKeyWords_keyExpansion st.w st.key⟩
  enc hq := nomatch hq
  dec hq := nomatch hq
  key_valid hk := nomatch hk
  in_reset hr' := absurd (hr.symm.trans hr') (by decide)

theorem State.Inv.startEnc {st : State} (h : st.Inv) (hr : st.resetIn = false) (hk : st.keyValid = true) :
    (startEnc st).Inv where
  err_legal := Nat.zero_le 4
  drop_err _ := rfl
  done_err _ := rfl
  busy_status _ := ⟨rfl, rfl⟩
  keyexp hq := nomatch hq
  enc _ := ⟨Nat.le_refl 1, by simp, hk, rfl⟩
  dec hq := nomatch hq
  key_valid := h.key_valid
  in_reset hr' := absurd (hr.symm.trans hr') (by decide)

theorem State.Inv.startDec {st : State} (h : st.Inv) (hr : st.resetIn = false) (hk : st.keyValid = true) :
    (startDec st).Inv where
  err_legal := Nat.zero_le 4
  drop_err _ := rfl
  done_err _ := rfl
  busy_status _ := ⟨rfl, rfl⟩
  keyexp hq := nomatch hq
  enc hq := nomatch hq
  dec _ := ⟨Nat.le_refl 9, hk, rfl⟩
  key_valid := h.key_valid
  in_reset hr' := absurd (hr.symm.trans hr') (by decide)

/-- An accepted command starts from its own first state (44 R222 to R224). -/
theorem State.Inv.startCommand {st : State} (h : st.Inv) (hr : st.resetIn = false) {op : BitVec 3}
    (hk : op ≠ 1 → st.keyValid = true) : (startCommand op st).Inv := by
  by_cases hop : op = 1
  · rw [hop, startCommand_one]
    exact .startKeyExp hr
  · obtain hs | hs := startCommand_block hop <;> rw [hs]
    · exact h.startEnc hr (hk hop)
    · exact h.startDec hr (hk hop)

/-- Every effect of a write keeps the invariant. -/
theorem WriteEffect.keeps_inv {st x t : State} (h : WriteEffect st x t) (hi : x.Inv) (hr : x.resetIn = false)
    (hb : x.busy = st.busy) (hk : x.keyValid = st.keyValid) : t.Inv := by
  cases h with
  | none => exact hi
  | dropped hbusy => exact hi.setDrop hr (hb.trans hbusy)
  | key k hidle => exact hi.idle_inputs hr (hb.trans hidle) k x.din
  | din b hidle => exact hi.idle_inputs hr (hb.trans hidle) x.key b
  | rejected e v hissue => exact hi.reportCmdError hr (hb.trans hissue.2.1) e
  | started v _ hkey => exact hi.startCommand hr (hk ▸ hkey)

/-- A running command that moves on keeps the invariant. -/
theorem State.Inv.of_continues {st : State} (h : st.Inv) (hr : st.resetIn = false) {w : Schedule} {m : Matrix}
    {r : BitVec 6} (hw : st.seq ≠ .keyexp → w = st.w)
    (hp : State.Progress { st with w := w, s := m, rnd := r }) : State.Inv { st with w := w, s := m, rnd := r } :=
  { h with
    keyexp := fun hq =>
      have ⟨hlo, hhi, hwords⟩ := hp.keyexp hq
      have ⟨_, _, hk, _⟩ := h.keyexp hq
      ⟨hlo, hhi, hk, hwords⟩
    enc := fun hq =>
      have ⟨hlo, hhi, hs⟩ := hp.enc hq
      have ⟨_, _, hk, _⟩ := h.enc hq
      ⟨hlo, hhi, hk, hs⟩
    dec := fun hq =>
      have ⟨hhi, hs⟩ := hp.dec hq
      have ⟨_, hk, _⟩ := h.dec hq
      ⟨hhi, hk, hs⟩
    key_valid := fun hk =>
      have hq : st.seq ≠ .keyexp := fun hq =>
        have ⟨_, _, hk', _⟩ := h.keyexp hq
        absurd (hk.symm.trans hk') (by decide)
      have ⟨k, hexp⟩ := h.key_valid hk
      ⟨k, (hw hq).trans hexp⟩
    in_reset := fun hr' => absurd (hr.symm.trans hr') (by decide) }

/-- What the state after completion holds, whatever the command: the engine is idle with DONE = 1, and ERR, DROP, the
inputs and all that is not the engine's are as before (44 R229). -/
theorem completed_frame {st : State} (hq : st.seq ≠ .idle) :
    completed st = { st with dout := (completed st).dout, w := (completed st).w, keyValid := (completed st).keyValid
                             done := true, seq := .idle } := by
  cases h : st.seq with
  | idle => exact absurd h hq
  | keyexp => simp [completed, h]
  | enc => simp [completed, h]
  | dec => simp [completed, h]

/-- KEY_VALID is 1 after completion over a complete expansion. -/
theorem State.Inv.completed_key_valid {st : State} (h : st.Inv) (hk : (completed st).keyValid = true) :
    ∃ k, (completed st).w = keyExpansion k := by
  cases hq : st.seq <;> simp only [completed, hq] at hk ⊢
  case keyexp => exact ⟨st.key, rfl⟩
  all_goals exact h.key_valid hk

/-- Completion keeps the invariant. -/
theorem State.Inv.of_completes {st : State} (h : st.Inv) (hr : st.resetIn = false) (hq : st.seq ≠ .idle) (m : Matrix)
    (r : BitVec 6) : State.Inv { completed st with s := m, rnd := r } := by
  obtain ⟨herr, -⟩ := h.busy_status hq
  have hkey := h.completed_key_valid
  rw [completed_frame hq] at hkey ⊢
  exact
    { err_legal := h.err_legal
      drop_err := h.drop_err
      done_err := fun _ => herr
      busy_status := fun hidle => absurd rfl hidle
      keyexp := nofun
      enc := nofun
      dec := nofun
      key_valid := hkey
      in_reset := fun hr' => absurd (hr.symm.trans hr') (by decide) }

/-- The turn of a running command keeps the invariant. -/
theorem TurnOutcome.keeps_inv {st t : State} (h : TurnOutcome st t) (hi : st.Inv) (hq : st.seq ≠ .idle) : t.Inv := by
  have hr := hi.released_of_running hq
  cases h with
  | continues _ hw _ ht hp =>
    rw [ht] at hp ⊢
    exact hi.of_continues hr hw hp
  | completes _ _ ht => exact ht ▸ hi.of_completes hr hq t.s t.rnd

/-- From a state that meets the invariant the sequencer's turn answers: it does nothing, or it moves a running command
on or completes it (44 R228; 70 R312). -/
theorem State.Inv.engineTurn {st : State} (h : st.Inv) :
    (st.seq = .idle ∧ engineTurn st = .next st) ∨
      (st.seq ≠ .idle ∧ ∃ t, engineTurn st = .next t ∧ TurnOutcome st t) := by
  by_cases hq : st.seq = .idle
  · exact .inl ⟨hq, by simp [Machine.engineTurn, engineStep, hq]⟩
  · exact .inr ⟨hq, engineTurn_outcome h.progress (h.released_of_running hq) hq⟩

theorem State.Inv.of_engineTurn {st t : State} (h : st.Inv) (ht : Machine.engineTurn st = .next t) : t.Inv := by
  rcases h.engineTurn with ⟨-, hstay⟩ | ⟨hq, u, hu, hout⟩
  · cases ht.symm.trans hstay
    exact h
  · cases ht.symm.trans hu
    exact hout.keeps_inv h hq

/-- Every step keeps the invariant. -/
theorem State.Inv.of_step {st t : State} (h : st.Inv) (hstep : step st = .next t) : t.Inv := by
  obtain ⟨ag, turns, d, ⟨-, he⟩ | ⟨hr, hw⟩ | rfl | ⟨-, rfl⟩ | ⟨-, rfl⟩⟩ := step_effect hstep
  · exact (h.withOutside ag turns d).of_engineTurn he
  · exact hw.keeps_inv (h.withOutside ag turns d) hr rfl rfl
  · exact h.withOutside ag turns d
  · exact .assertReset _
  · exact { h.withOutside ag turns d with in_reset := nofun }

/-! ### The fields a write's effect can change -/

theorem WriteEffect.dout_eq {st x t : State} (h : WriteEffect st x t) : t.dout = x.dout := by
  cases h <;> simp

theorem WriteEffect.key_cases {st x t : State} (h : WriteEffect st x t) :
    t.key = x.key ∨ (st.busy = false ∧ ∃ off v, st.writes off v ∧ 0x10 ≤ off ∧ off < 0x20) := by
  cases h with
  | key k hb off v hw hoff => exact .inr ⟨hb, off, v, hw, hoff⟩
  | _ => left; simp

theorem WriteEffect.din_cases {st x t : State} (h : WriteEffect st x t) :
    t.din = x.din ∨ (st.busy = false ∧ ∃ off v, st.writes off v ∧ 0x20 ≤ off ∧ off < 0x30) := by
  cases h with
  | din b hb off v hw hoff => exact .inr ⟨hb, off, v, hw, hoff⟩
  | _ => left; simp

/-- A write clears DONE by a non-NOP issue alone (10 R34). -/
theorem WriteEffect.done_cases {st x t : State} (h : WriteEffect st x t) :
    t.done = x.done ∨ (t.done = false ∧ ∃ v, st.issues v) := by
  cases h with
  | rejected e v hi => exact .inr ⟨rfl, v, hi⟩
  | started v hi => exact .inr ⟨startCommand_done _ _, v, hi⟩
  | _ => exact .inl rfl

/-- The sequencer's turn sets DONE at completion alone, and completion is what brings SEQ to IDLE (10 R34; 44 R229). -/
theorem engineTurn_done_cases {st t : State} (h : engineTurn st = .next t) :
    (t.done = st.done ∧ t.seq = st.seq) ∨ (st.seq ≠ .idle ∧ t.seq = .idle ∧ t.done = true) := by
  rcases engineTurn_effect h with
    ⟨-, rfl⟩ | ⟨-, hq, w, ⟨r, rfl⟩ | rfl⟩ | ⟨-, hq, m, ⟨r, rfl⟩ | rfl⟩
  · exact .inl ⟨rfl, rfl⟩
  · exact .inl ⟨rfl, rfl⟩
  · exact .inr ⟨by simp [hq], rfl, rfl⟩
  · exact .inl ⟨rfl, rfl⟩
  · exact .inr ⟨by obtain hq | hq := hq <;> simp [hq], rfl, rfl⟩

/-- A write changes KEY_VALID and W by the start of KEY_EXPAND alone (10 R35, R41). -/
theorem WriteEffect.schedule_cases {st x t : State} (h : WriteEffect st x t) :
    (t.keyValid = x.keyValid ∧ t.w = x.w) ∨
      (t.keyValid = false ∧ ∃ v, st.issues v ∧ fieldOp v = 1 ∧ t.seq = .keyexp) := by
  cases h with
  | started v hi _ =>
    by_cases hop : fieldOp v = 1
    · exact .inr ⟨by rw [hop]; rfl, v, hi, hop, by rw [hop]; rfl⟩
    · left
      obtain hs | hs := startCommand_block hop <;> rw [hs] <;> exact ⟨rfl, rfl⟩
  | _ => exact .inl ⟨rfl, rfl⟩

/-- While a command runs a write at most sets DROP (20 R84). -/
theorem WriteEffect.of_busy {st x t : State} (h : WriteEffect st x t) (hb : st.busy = true) :
    t = x ∨ t = x.setDrop := by
  cases h with
  | none => exact .inl rfl
  | dropped _ => exact .inr rfl
  | key k hidle => exact absurd (hb.symm.trans hidle) (by decide)
  | din b hidle => exact absurd (hb.symm.trans hidle) (by decide)
  | rejected e v hi => exact absurd (hb.symm.trans hi.2.1) (by decide)
  | started v hi => exact absurd (hb.symm.trans hi.2.1) (by decide)

/-- While a command runs a step is the sequencer's turn or an assertion of reset, or it leaves the engine as it is up to
DROP and the reset input. -/
theorem step_of_busy {st t : State} (h : step st = .next t) (hb : st.busy = true) (ha : st.turn ≠ .assertReset) :
    (∃ ag turns d, engineTurn (withOutside st ag turns d) = .next t) ∨
      (t.seq = st.seq ∧ t.key = st.key ∧ t.din = st.din ∧ t.w = st.w) := by
  obtain ⟨ag, turns, d, ⟨-, he⟩ | ⟨-, hw⟩ | rfl | ⟨ha', -⟩ | ⟨-, rfl⟩⟩ := step_effect h
  · exact .inl ⟨ag, turns, d, he⟩
  · right
    obtain rfl | rfl := hw.of_busy hb <;> exact ⟨rfl, rfl, rfl, rfl⟩
  · exact .inr ⟨rfl, rfl, rfl, rfl⟩
  · exact absurd ha' ha
  · exact .inr ⟨rfl, rfl, rfl, rfl⟩

/-! ### Which turns can stop the run -/

/-- What the bus answers: a next state, a refusal outside the window, or a fault that is not the sequencer's. -/
def BusAnswer (r : Result) : Prop :=
  (∃ t, r = .next t) ∨ r = .refused .outsideWindow ∨ r = .fault .accessDuringReset ∨
    ∃ off n, r = .fault (.busError off n)

theorem memWrite_busAnswer (addr size : Nat) (v : Word) (st : State) : BusAnswer (memWrite addr size v st) := by
  unfold memWrite
  cases windowHit st.params addr size with
  | outside => exact .inr (.inl rfl)
  | nonConforming off => cases st.resetIn <;> simp [BusAnswer]
  | register off =>
    obtain ⟨t, ht, -⟩ := writeRegister_cases off v st
    cases st.resetIn <;> simp [BusAnswer, ht]

/-- What a read answers, in the same way. -/
theorem memRead_answer (st : State) (addr size : Nat) :
    (∃ v, memRead st addr size = .data v) ∨ memRead st addr size = .refused .outsideWindow ∨
      memRead st addr size = .fault .accessDuringReset ∨ ∃ off n, memRead st addr size = .fault (.busError off n) := by
  unfold memRead
  cases windowHit st.params addr size with
  | outside => exact .inr (.inl rfl)
  | nonConforming off => cases st.resetIn <;> simp
  | register off => cases st.resetIn <;> simp

theorem access_busAnswer (a : BusAccess) (st : State) : BusAnswer (access a st) := by
  cases a with
  | write addr size v => exact memWrite_busAnswer addr size v st
  | read addr size =>
    unfold access
    rcases memRead_answer st addr size with ⟨v, h⟩ | h | h | ⟨off, n, h⟩ <;> simp [BusAnswer, h]

theorem hostExec_busAnswer (i : HostInstr) (st : State) : BusAnswer (hostExec i st) := by
  cases i with
  | wrImm off imm => exact memWrite_busAnswer _ _ _ _
  | wrReg off n => exact memWrite_busAnswer _ _ _ _
  | rd n off =>
    unfold hostExec hostRead
    rcases memRead_answer st (st.params.aesBase + off) 4 with ⟨v, h⟩ | h | h | ⟨off, n, h⟩ <;> simp [BusAnswer, h]
  | andi n m imm => exact .inl ⟨_, rfl⟩
  | bnez n l => exact .inl ⟨_, rfl⟩
  | beqz n l => exact .inl ⟨_, rfl⟩
  | halt => exact .inl ⟨_, rfl⟩

theorem hostTurn_busAnswer (st : State) : BusAnswer (hostTurn st) := by
  unfold hostTurn
  split
  · exact .inl ⟨_, rfl⟩
  · split
    · exact .inl ⟨_, rfl⟩
    · exact hostExec_busAnswer _ _

/-- Every turn but the sequencer's answers as the bus does. -/
theorem runTurn_busAnswer {tn : Turn} (h : tn ≠ .engine) (st : State) : BusAnswer (runTurn tn st) := by
  cases tn with
  | engine => exact absurd rfl h
  | host => exact hostTurn_busAnswer st
  | access a => exact access_busAnswer a st
  | assertReset => exact .inl ⟨_, rfl⟩
  | releaseReset => exact .inl ⟨_, rfl⟩

/-- The sequencer's turn is never refused. -/
theorem engineTurn_ne_refused (st : State) (r : Refusal) : engineTurn st ≠ .refused r := by
  unfold engineTurn engineStep
  split
  · simp
  · cases st.seq with
    | idle => simp
    | keyexp => simp only [stepKeyExp]; split_ifs <;> simp
    | enc => simp only [stepEnc]; split_ifs <;> simp
    | dec => simp only [stepDec]; split_ifs <;> simp

/-- A configuration a model refuses (93 item 2; 70 R330). -/
theorem params_not_ok_iff (p : Params) :
    p.ok = false ↔
      p.aesBase % 0x40 ≠ 0 ∨ 2 ^ p.busAw < p.aesBase + 64 ∨ p.latKey = 0 ∨ p.latEnc = 0 ∨ p.latDec = 0 := by
  rw [← Bool.not_eq_true]
  simp only [Params.ok, Config.windowBytes, Bool.and_eq_true, beq_iff_eq, decide_eq_true_eq]
  omega

end Sys2Proof.Machine
end

section
/-! The statements about every step settled: the invariant (10 section 3), what can stop the run (93 items 2, 6 and 7),
and what changes the items of 10 section 1. -/

open Sys2Proof Sys2Proof.Machine

/-- Settles O36: `step_effect` says what a step does to the engine, and each effect keeps the invariant. -/
theorem stepKeepsInvariant : Obligations.StepKeepsInvariant := by
  unfold Obligations.StepKeepsInvariant
  exact fun st t hi h => hi.of_step h

/-- Settles O35: the engine at its reset values, reset released. -/
theorem resetMeetsInvariant : Obligations.ResetMeetsInvariant := by
  unfold Obligations.ResetMeetsInvariant
  exact { State.Inv.assertReset State.reset with in_reset := nofun }

/-- Settles O44: the invariant keeps RND where the sequencer has a step, and no step of it writes ERR. -/
theorem acceptedCommandNeverFails : Obligations.AcceptedCommandNeverFails := by
  unfold Obligations.AcceptedCommandNeverFails
  intro st hi
  obtain ⟨t, ht⟩ : ∃ t, engineTurn st = .next t := by
    rcases hi.engineTurn with ⟨-, hstay⟩ | ⟨-, t, ht, -⟩
    · exact ⟨st, hstay⟩
    · exact ⟨t, ht⟩
  refine ⟨t, ht, fun hb => ?_⟩
  rw [(engineTurn_drop_err ht).2, (hi.busy_status ((busy_true_iff st).1 hb)).1]

/-- Settles O45: under the invariant the sequencer's turn answers, and every other turn answers as the bus does; no turn
refuses the configuration, so a step does exactly when `Params.ok` fails. -/
theorem onlyTheHostCausesStops : Obligations.OnlyTheHostCausesStops := by
  unfold Obligations.OnlyTheHostCausesStops
  refine ⟨fun st hi => ?_, fun st => ?_⟩
  · by_cases hp : st.params.ok = true
    · rw [step, if_pos hp]
      by_cases he : (nextTurn st).1 = .engine
      · rw [he, nextTurn_eq_withOutside]
        rcases (hi.withOutside st.host (nextTurn st).2.schedule st.readData).engineTurn with ⟨-, h⟩ | ⟨-, t, h, -⟩
        · exact .inl ⟨_, h⟩
        · exact .inl ⟨_, h⟩
      · rcases runTurn_busAnswer he (nextTurn st).2 with h | h | h | ⟨off, n, h⟩
        · exact .inl h
        all_goals exact .inr (by rw [h]; trivial)
    · exact .inr (by rw [step, if_neg hp]; trivial)
  · rw [← params_not_ok_iff, step]
    by_cases hp : st.params.ok = true
    · rw [if_pos hp]
      refine iff_of_false ?_ (by simp [hp])
      by_cases he : (nextTurn st).1 = .engine
      · rw [he]
        exact engineTurn_ne_refused _ _
      · rcases runTurn_busAnswer he (nextTurn st).2 with ⟨t, h⟩ | h | h | ⟨off, n, h⟩ <;> simp [h]
    · rw [if_neg hp]
      exact iff_of_true rfl (by simpa using hp)

/-- Settles O46: while the command runs only the sequencer's turn ends it, and then the state is `completed`. -/
theorem blockCompletionPublishesResult : Obligations.BlockCompletionPublishesResult := by
  unfold Obligations.BlockCompletionPublishesResult
  intro st t hi h ha hidle
  by_cases hq : st.seq = .idle
  · simp [hq]
  have hr := hi.released_of_running hq
  obtain ⟨herr, -⟩ := hi.busy_status hq
  rcases step_of_busy h ((busy_true_iff st).2 hq) ha with ⟨ag, turns, d, he⟩ | ⟨hseq, -⟩
  · obtain ⟨u, hu, hout⟩ := engineTurn_outcome (hi.withOutside ag turns d).progress hr hq
    cases he.symm.trans hu
    cases hout with
    | continues _ _ _ ht _ => exact absurd ((congrArg State.seq ht).symm.trans hidle) hq
    | completes _ _ ht =>
      rw [ht]
      refine ⟨fun hs => ?_, fun hs => ?_, fun hs => ?_⟩ <;> simp [completed, hs, herr]
  · exact absurd (hseq.symm.trans hidle) hq

/-- Settles O47: `step_of_busy`, and the sequencer's turn writes neither KEY nor DIN, and W in KEYEXP alone. -/
theorem runningCommandInputsAreStable : Obligations.RunningCommandInputsAreStable := by
  unfold Obligations.RunningCommandInputsAreStable
  intro st t hb h ha
  rcases step_of_busy h hb ha with ⟨ag, turns, d, he⟩ | ⟨hq, hk, hd, hw⟩
  · rcases engineTurn_effect he with
      ⟨-, rfl⟩ | ⟨-, hq, w, ⟨r, rfl⟩ | rfl⟩ | ⟨-, hq, m, ⟨r, rfl⟩ | rfl⟩
    · exact ⟨rfl, rfl, fun _ => rfl, fun _ => rfl⟩
    · exact ⟨rfl, rfl, fun hne => absurd hq hne, fun _ => rfl⟩
    · exact ⟨rfl, rfl, fun hne => absurd hq hne, nofun⟩
    · exact ⟨rfl, rfl, fun _ => rfl, fun _ => rfl⟩
    · exact ⟨rfl, rfl, fun _ => rfl, nofun⟩
  · exact ⟨hk, hd, fun _ => hw, fun _ => hq⟩

/-- Settles O60: DONE is set at the completions alone, and cleared at the non-NOP issues and by reset. -/
theorem doneChangesOnlyAsStated : Obligations.DoneChangesOnlyAsStated := by
  unfold Obligations.DoneChangesOnlyAsStated
  intro st t h
  refine ⟨fun ht hs => ?_, fun he hq hidle => ?_, fun ht hs => ?_, fun v hi => ?_, fun ha => ?_⟩
  · obtain ⟨ag, turns, d, ⟨he, heng⟩ | ⟨-, hw⟩ | rfl | ⟨-, rfl⟩ | ⟨-, rfl⟩⟩ := step_effect h
    · rcases engineTurn_done_cases heng with ⟨hd, -⟩ | ⟨hq, hidle, -⟩
      · simp [hd, hs] at ht
      · exact ⟨he, hq, hidle⟩
    · rcases hw.done_cases with hd | ⟨hd, -⟩
      · simp [hd, hs] at ht
      · simp [hd] at ht
    · simp [hs] at ht
    · simp at ht
    · simp [hs] at ht
  · rcases engineTurn_done_cases (step_of_engine h he) with ⟨-, hseq⟩ | ⟨-, -, hd⟩
    · exact absurd (by simpa [hidle] using hseq.symm) hq
    · exact hd
  · obtain ⟨ag, turns, d, ⟨-, heng⟩ | ⟨-, hw⟩ | rfl | ⟨ha, -⟩ | ⟨-, rfl⟩⟩ := step_effect h
    · rcases engineTurn_done_cases heng with ⟨hd, -⟩ | ⟨-, -, hd⟩
      · simp [hd, hs] at ht
      · simp [hd] at ht
    · rcases hw.done_cases with hd | ⟨-, hi⟩
      · simp [hd, hs] at ht
      · exact .inr hi
    · simp [hs] at ht
    · exact .inl ha
    · simp [hs] at ht
  · obtain ⟨x, -, rfl⟩ := step_of_issues h hi
    cases issueError v st.keyValid <;> simp
  · rw [step_of_assertReset h ha, assertReset_done]

/-- Settles O41: KEY_VALID is set at the completion of KEY_EXPAND, and cleared at its start and by reset. -/
theorem keyValidChangesOnlyAsStated : Obligations.KeyValidChangesOnlyAsStated := by
  unfold Obligations.KeyValidChangesOnlyAsStated
  intro st t h
  obtain ⟨ag, turns, d, ⟨he, heng⟩ | ⟨-, hw⟩ | rfl | ⟨ha, rfl⟩ | ⟨-, rfl⟩⟩ := step_effect h
  · rcases engineTurn_effect heng with
      ⟨-, rfl⟩ | ⟨-, hq, w, ⟨r, rfl⟩ | rfl⟩ | ⟨-, -, m, ⟨r, rfl⟩ | rfl⟩
    case inr.inl.inr => exact ⟨fun _ _ => ⟨he, hq, rfl⟩, nofun⟩
    all_goals exact ⟨fun ht hs => absurd (hs.symm.trans ht) (by decide),
      fun ht hs => absurd (hs.symm.trans ht) (by decide)⟩
  · rcases hw.schedule_cases with ⟨hk, -⟩ | ⟨hk, hi⟩
    · exact ⟨fun ht hs => by simp [hk, hs] at ht, fun ht hs => by simp [hk, hs] at ht⟩
    · exact ⟨fun ht _ => by simp [hk] at ht, fun _ _ => .inr hi⟩
  · exact ⟨fun ht hs => by simp [hs] at ht, fun ht hs => by simp [hs] at ht⟩
  · exact ⟨nofun, fun _ _ => .inl ha⟩
  · exact ⟨fun ht hs => by simp [hs] at ht, fun ht hs => by simp [hs] at ht⟩

/-- Settles O42: `WriteEffect.key_cases` and `WriteEffect.din_cases`; the sequencer's turn writes neither. -/
theorem inputsChangeOnlyByIdleWrites : Obligations.InputsChangeOnlyByIdleWrites := by
  unfold Obligations.InputsChangeOnlyByIdleWrites
  intro st t h
  obtain ⟨ag, turns, d, ⟨-, heng⟩ | ⟨-, hw⟩ | rfl | ⟨ha, -⟩ | ⟨-, rfl⟩⟩ := step_effect h
  · rcases engineTurn_effect heng with
      ⟨-, rfl⟩ | ⟨-, -, w, ⟨r, rfl⟩ | rfl⟩ | ⟨-, -, m, ⟨r, rfl⟩ | rfl⟩ <;>
      exact ⟨fun hne => absurd rfl hne, fun hne => absurd rfl hne⟩
  · exact ⟨fun hne => .inr (hw.key_cases.resolve_left hne), fun hne => .inr (hw.din_cases.resolve_left hne)⟩
  · exact ⟨fun hne => absurd rfl hne, fun hne => absurd rfl hne⟩
  · exact ⟨fun _ => .inl ha, fun _ => .inl ha⟩
  · exact ⟨fun hne => absurd rfl hne, fun hne => absurd rfl hne⟩

/-- Settles O43: only a block command's completion writes DOUT; W is written by the KEYEXP steps, and of the writes by
the start of KEY_EXPAND alone. -/
theorem resultsChangeOnlyAsStated : Obligations.ResultsChangeOnlyAsStated := by
  unfold Obligations.ResultsChangeOnlyAsStated
  intro st t h
  obtain ⟨ag, turns, d, ⟨he, heng⟩ | ⟨-, hw⟩ | rfl | ⟨ha, -⟩ | ⟨-, rfl⟩⟩ := step_effect h
  · rcases engineTurn_effect heng with
      ⟨-, rfl⟩ | ⟨-, hq, w, ⟨r, rfl⟩ | rfl⟩ | ⟨-, hq, m, ⟨r, rfl⟩ | rfl⟩
    · exact ⟨fun hne => absurd rfl hne, fun hne => absurd rfl hne⟩
    · exact ⟨fun hne => absurd rfl hne, fun _ => .inr (.inl ⟨he, hq⟩)⟩
    · exact ⟨fun hne => absurd rfl hne, fun _ => .inr (.inl ⟨he, hq⟩)⟩
    · exact ⟨fun hne => absurd rfl hne, fun hne => absurd rfl hne⟩
    · exact ⟨fun _ => .inr ⟨he, hq, rfl, rfl⟩, fun hne => absurd rfl hne⟩
  · refine ⟨fun hne => absurd hw.dout_eq hne, fun hne => .inr (.inr ?_)⟩
    rcases hw.schedule_cases with ⟨-, hsame⟩ | ⟨-, hi⟩
    · exact absurd hsame hne
    · exact hi
  · exact ⟨fun hne => absurd rfl hne, fun hne => absurd rfl hne⟩
  · exact ⟨fun _ => .inl ha, fun _ => .inl ha⟩
  · exact ⟨fun hne => absurd rfl hne, fun hne => absurd rfl hne⟩

end

section
/-! The facts under the statements about the sequencer and about whole commands: a running command taken to its end
(44 R228, R229), n steps of the machine, and the frames of a turn (10 section 1). -/

namespace Sys2Proof.Machine

/-! ### A running command taken to its end -/

/-- n turns of the sequencer, each of them while a command runs. -/
def EngineRun : Nat → State → State → Prop
  | 0, x, u => x = u
  | n + 1, x, u => x.busy = true ∧ ∃ y, engineTurn x = .next y ∧ EngineRun n y u

/-- A command that has moved on will complete with the same result. -/
theorem completed_of_continues {st t : State} (hw : st.seq ≠ .keyexp → t.w = st.w)
    (ht : t = { st with w := t.w, s := t.s, rnd := t.rnd }) :
    completed t = { completed st with s := t.s, rnd := t.rnd } := by
  have hseq : t.seq = st.seq := (congrArg State.seq ht :)
  rw [ht]
  cases hq : st.seq with
  | idle => simp [completed, hq, hw (by simp [hq])]
  | keyexp => simp [completed, hq]
  | enc => simp [completed, hq, hw (by simp [hq])]
  | dec => simp [completed, hq, hw (by simp [hq])]

/-- The running command ends after `remaining` turns of the sequencer with its result; S and RND are left open, but S
after an expansion is as before (44 R229; log 10). -/
theorem engineRun_completes {st : State} (hp : st.Progress) (hr : st.resetIn = false) (hq : st.seq ≠ .idle) :
    ∃ u, EngineRun (remaining st) st u ∧ u = { completed st with s := u.s, rnd := u.rnd } ∧
      (st.seq = .keyexp → u.s = st.s) := by
  induction hn : remaining st generalizing st with
  | zero =>
    obtain ⟨t, -, hout⟩ := engineTurn_outcome hp hr hq
    cases hout <;> omega
  | succ n ih =>
    obtain ⟨t, hturn, hout⟩ := engineTurn_outcome hp hr hq
    have hb : st.busy = true := (busy_true_iff st).2 hq
    cases hout with
    | continues hrem hw hs ht hpt =>
      have hseq : t.seq = st.seq := (congrArg State.seq ht :)
      obtain ⟨u, hrun, hu, hsu⟩ := ih hpt ((congrArg State.resetIn ht).trans hr) (hseq ▸ hq) (by omega)
      rw [completed_of_continues hw ht] at hu
      exact ⟨u, ⟨hb, t, hturn, hrun⟩, hu, fun hk => (hsu (hseq.trans hk)).trans (hs hk)⟩
    | completes hrem hs ht =>
      obtain rfl : n = 0 := by omega
      exact ⟨t, ⟨hb, t, hturn, rfl⟩, ht, hs⟩

/-- No command has more than 40 steps to go (10 R46). -/
theorem remaining_le {st : State} (hp : st.Progress) : remaining st ≤ 40 := by
  unfold remaining
  cases hq : st.seq with
  | idle => simp
  | keyexp => have := hp.keyexp hq; simp only; omega
  | enc => simp only; omega
  | dec => have := hp.dec hq; simp only; omega

theorem exec_keyExpand_accepted {st : State} (hb : st.busy = false) :
    exec (.keyExpand 16) st = .next (startKeyExp st) := by
  rw [exec_keyExpand, whileIdle_idle _ hb, issueKeyExpand_eq, if_neg (by decide)]

theorem exec_encryptBlock_accepted {st : State} (hb : st.busy = false) (hk : st.keyValid = true) :
    exec (.encryptBlock 16) st = .next (startEnc st) := by
  rw [exec_encryptBlock, whileIdle_idle _ hb, issueBlock_eq, if_neg (by simp [hk]), if_neg (by decide)]

theorem exec_decryptBlock_accepted {st : State} (hb : st.busy = false) (hk : st.keyValid = true) :
    exec (.decryptBlock 16) st = .next (startDec st) := by
  rw [exec_decryptBlock, whileIdle_idle _ hb, issueBlock_eq, if_neg (by simp [hk]), if_neg (by decide)]

theorem State.Progress.startKeyExp (st : State) : (startKeyExp st).Progress where
  keyexp _ := ⟨Nat.le_refl 4, by simp, loadKeyWords_keyExpansion st.w st.key⟩
  enc hq := nomatch hq
  dec hq := nomatch hq

theorem State.Progress.startEnc (st : State) : (startEnc st).Progress where
  keyexp hq := nomatch hq
  enc _ := ⟨Nat.le_refl 1, by simp, rfl⟩
  dec hq := nomatch hq

theorem State.Progress.startDec (st : State) : (startDec st).Progress where
  keyexp hq := nomatch hq
  enc hq := nomatch hq
  dec _ := ⟨Nat.le_refl 9, rfl⟩

/-! ### Frames of a turn -/

theorem engineStep_idle {st : State} (hq : st.seq = .idle) : engineStep st = .next st := by
  rw [engineStep, hq]

/-- A step of the sequencer leaves the inputs, DROP, ERR, the reset input and all that is not the engine's alone. -/
theorem engineStep_frame {st t : State} (h : engineStep st = .next t) :
    t.key = st.key ∧ t.din = st.din ∧ t.drop = st.drop ∧ t.err = st.err ∧ t.resetIn = st.resetIn ∧
      t.host = st.host ∧ t.params = st.params ∧ t.schedule = st.schedule ∧ t.readData = st.readData := by
  by_cases hq : st.seq = .idle
  · rw [engineStep_idle hq] at h
    cases h
    simp
  · rcases engineStep_progress_or_completes hq h with ⟨w, m, r, rfl⟩ | ⟨-, w, rfl⟩ | ⟨-, m, rfl⟩ <;> simp

/-- The sequencer's turn leaves the host, the parameters and the schedule alone. -/
theorem engineTurn_frame {st t : State} (h : engineTurn st = .next t) :
    t.host = st.host ∧ t.params = st.params ∧ t.schedule = st.schedule ∧ t.resetIn = st.resetIn := by
  unfold engineTurn at h
  split at h
  · cases h
    simp
  · obtain ⟨-, -, -, -, hr, hh, hp, hs, -⟩ := engineStep_frame h
    exact ⟨hh, hp, hs, hr⟩

theorem engineRun_frame {n : Nat} {st u : State} (h : EngineRun n st u) :
    u.host = st.host ∧ u.params = st.params ∧ u.schedule = st.schedule ∧ u.resetIn = st.resetIn := by
  induction n generalizing st with
  | zero => cases h; simp
  | succ n ih =>
    obtain ⟨-, y, hy, hrun⟩ := h
    simpa [engineTurn_frame hy] using ih hrun

/-- The issue of a command leaves the host, the parameters, the schedule and the reset input alone. -/
theorem exec_frame {i : Instr} {st t : State} (h : exec i st = .next t) :
    t.host = st.host ∧ t.params = st.params ∧ t.schedule = st.schedule ∧ t.resetIn = st.resetIn := by
  cases hb : st.busy with
  | true =>
    rw [exec_busy i hb] at h
    cases h
    simp
  | false =>
    obtain ⟨u, hu, hcases⟩ := exec_idle_cases i hb
    cases h.symm.trans hu
    rcases hcases with rfl | ⟨e, rfl⟩ | rfl | ⟨-, rfl | rfl⟩ <;> simp

theorem memWrite_frame {addr size : Nat} {v : Word} {st t : State} (h : memWrite addr size v st = .next t) :
    t.host = st.host ∧ t.params = st.params ∧ t.schedule = st.schedule ∧ t.resetIn = st.resetIn := by
  obtain ⟨-, off, -, hreg⟩ := memWrite_cases h
  obtain ⟨u, hu, hcases⟩ := writeRegister_cases off v st
  cases hreg.symm.trans hu
  rcases hcases with ⟨-, hex⟩ | ⟨-, rfl⟩ | ⟨-, -, rfl⟩ | ⟨-, j, -, rfl⟩ | ⟨-, j, -, rfl⟩
  · exact exec_frame hex
  all_goals simp

/-- No turn changes the parameters. -/
theorem runTurn_params {tn : Turn} {st t : State} (h : runTurn tn st = .next t) : t.params = st.params := by
  rcases runTurn_cases h with ⟨-, he⟩ | ⟨ag, addr, size, v, hw⟩ | ⟨ag, d, rfl⟩ | ⟨-, rfl⟩ | ⟨-, rfl⟩
  · exact (engineTurn_frame he).2.1
  · exact (memWrite_frame hw).2.1
  all_goals rfl

/-- Every turn but the host's leaves the host alone. -/
theorem runTurn_host {tn : Turn} {st t : State} (h : runTurn tn st = .next t) (hne : tn ≠ .host) :
    t.host = st.host := by
  cases tn with
  | engine => exact (engineTurn_frame h).1
  | host => exact absurd rfl hne
  | access a =>
    cases a with
    | write addr size v => exact (memWrite_frame h).1
    | read addr size =>
      simp only [runTurn, access] at h
      split at h <;> cases h
      rfl
  | assertReset => cases h; rfl
  | releaseReset => cases h; rfl

/-! ### n steps of the machine -/


theorem runSteps_succ (n : Nat) (st : State) : runSteps (n + 1) st = andThen (step st) (runSteps n) := by
  simp only [runSteps, Host.Core.run, Sys2Proof.core]
  cases step st <;> rfl

theorem runSteps_of_step {st t : State} (n : Nat) (h : step st = .next t) : runSteps (n + 1) st = runSteps n t := by
  rw [runSteps_succ, h, andThen_next]

/-- With nothing scheduled a running command's turn comes first (log 1). -/
theorem step_of_busy_default {st : State} (hp : st.params.ok = true) (hs : st.schedule = []) (hb : st.busy = true) :
    step st = engineTurn st := by
  rw [step_default hp hs, defaultTurn, if_pos hb]
  rfl

/-- With nothing scheduled the steps of the machine take a running command to its end (log 1). -/
theorem runSteps_of_engineRun {n : Nat} {st u : State} (m : Nat) (h : EngineRun n st u) (hp : st.params.ok = true)
    (hs : st.schedule = []) : runSteps (n + m) st = runSteps m u := by
  induction n generalizing st with
  | zero => cases h; rw [Nat.zero_add]
  | succ n ih =>
    obtain ⟨hb, y, hy, hrun⟩ := h
    obtain ⟨-, hpar, hsch, -⟩ := engineTurn_frame hy
    rw [Nat.add_right_comm, runSteps_of_step _ ((step_of_busy_default hp hs hb).trans hy)]
    exact ih hrun (hpar ▸ hp) (hsch.trans hs)

/-- The step at which a turn stands first in the schedule. -/
theorem step_of_schedule {st : State} {tn : Turn} {rest : List Turn} (hp : st.params.ok = true)
    (hs : st.schedule = tn :: rest) : step st = runTurn tn { st with schedule := rest } := by
  simp only [step, hp, if_true, nextTurn, hs]

theorem step_scheduled_engine (st : State) (rest : List Turn) (hp : st.params.ok = true) (hr : st.resetIn = false) :
    step { st with schedule := .engine :: rest } = engineStep { st with schedule := rest } :=
  (step_of_schedule (st := { st with schedule := .engine :: rest }) hp rfl).trans (engineTurn_of_released hr)

/-- A scheduled write of a word to CMD is `exec` of the decoded word (10 R31; 20 R76). -/
theorem step_of_cmd_write {st : State} {v : Word} {rest : List Turn} (hp : st.params.ok = true) (hr : st.resetIn = false)
    (hs : st.schedule = .access (.write st.params.aesBase 4 v) :: rest) :
    step st = exec (decode v) { st with schedule := rest } := by
  rw [step_of_schedule hp hs]
  exact memWrite_cmd (st := { st with schedule := rest }) v hr

theorem step_scheduled_cmd_write (st : State) (v : Word) (rest : List Turn) (hp : st.params.ok = true)
    (hr : st.resetIn = false) :
    step { st with schedule := .access (.write st.params.aesBase 4 v) :: rest } =
      exec (decode v) { st with schedule := rest } :=
  step_of_cmd_write (st := { st with schedule := .access (.write st.params.aesBase 4 v) :: rest }) hp hr rfl

theorem runSteps_one (st : State) : runSteps 1 st = step st := by
  rw [runSteps_succ]
  cases step st <;> rfl

/-! ### A dropped write and the sequencer -/

/-- The sequencer looks neither at DROP nor at the schedule. -/
theorem engineStep_drop_schedule {st t : State} (d : Bool) (turns : List Turn) (h : engineStep st = .next t) :
    engineStep { st with drop := d, schedule := turns } = .next { t with drop := d, schedule := turns } := by
  generalize hx : { st with drop := d, schedule := turns } = x
  have hseq : x.seq = st.seq := (congrArg State.seq hx).symm
  have hrnd : x.rnd = st.rnd := (congrArg State.rnd hx).symm
  by_cases hq : st.seq = .idle
  · rw [engineStep_idle hq] at h
    cases h
    rw [engineStep_idle (hseq.trans hq), hx]
  · rcases engineStep_cases hq h with ⟨hq, h⟩ | ⟨hq, h⟩ | ⟨hq, h⟩
    · obtain ⟨hlo, -, ⟨hr, rfl⟩ | ⟨hr, rfl⟩⟩ := stepKeyExp_cases h <;> rw [engineStep_keyexp (hseq.trans hq)]
      · rw [stepKeyExp_last (by rw [hrnd, hr]), ← hx]
        rfl
      · rw [stepKeyExp_more (by rwa [hrnd]) (by rwa [hrnd]), ← hx]
    · obtain ⟨hlo, -, ⟨hr, rfl⟩ | ⟨hr, rfl⟩⟩ := stepEnc_cases h <;> rw [engineStep_enc (hseq.trans hq)]
      · rw [stepEnc_last (by rw [hrnd, hr]), ← hx]
        rfl
      · rw [stepEnc_more (by rwa [hrnd]) (by rwa [hrnd]), ← hx]
    · obtain ⟨hhi, ⟨hr, rfl⟩ | ⟨hr, rfl⟩⟩ := stepDec_cases h <;> rw [engineStep_dec (hseq.trans hq)]
      · rw [stepDec_last (by rw [hrnd, hr]), ← hx]
        rfl
      · rw [stepDec_more (by rwa [hrnd]) (by rwa [hrnd]), ← hx]

end Sys2Proof.Machine
end

section
/-! The statements about the sequencer and about whole commands settled (44 R222 to R230). -/

open Sys2Proof Sys2Proof.Machine

/-- Settles O20: the step in range computes word RND by `expandWord`, whose bytes are those of `nextWord`. -/
theorem keyExpStep : Obligations.KeyExpStep := by
  unfold Obligations.KeyExpStep
  intro st hq hlo hhi
  have hw : ∀ i, i ≠ st.rnd.toNat → schedWord (expandWord st.w st.rnd.toNat) i = schedWord st.w i :=
    fun i hi => (schedWord_expandWord _ _ _ (by omega)).trans (if_neg hi)
  have hword : schedWord (expandWord st.w st.rnd.toNat) st.rnd.toNat = nextWord st.w st.rnd.toNat :=
    (schedWord_expandWord _ _ _ (by omega)).trans (if_pos rfl)
  rw [engineStep_keyexp hq]
  by_cases hlast : st.rnd.toNat = 43
  · refine ⟨_, stepKeyExp_last hlast, fun i _ hi => ?_, fun j => ?_, fun hlt => absurd hlast (by omega), fun _ => rfl⟩
    · exact hlast ▸ hw i hi
    · rw [← wordByte_nextWord, ← hword, ← hlast]
      rfl
  · refine ⟨_, stepKeyExp_more hlo (by omega), fun i _ hi => hw i hi, fun j => ?_, fun _ => rfl,
      fun h => absurd h hlast⟩
    rw [← wordByte_nextWord, ← hword]

/-- Settles O21: one lemma for each place of RND. -/
theorem blockSteps : Obligations.BlockSteps := by
  unfold Obligations.BlockSteps
  refine ⟨fun st hq hlo => ⟨fun hhi => ?_, fun hlast => ?_⟩, fun st hq => ⟨fun hlo hhi => ?_, fun hlast => ?_⟩⟩
  · exact (engineStep_enc hq).trans (stepEnc_more hlo (by omega))
  · exact (engineStep_enc hq).trans (stepEnc_last hlast)
  · exact (engineStep_dec hq).trans (stepDec_more hlo hhi)
  · exact (engineStep_dec hq).trans (stepDec_last hlast)

/-- Settles O23: `engineStep_frame`, and the sequencer has no step while idle. -/
theorem engineStepFrame : Obligations.EngineStepFrame := by
  unfold Obligations.EngineStepFrame
  exact ⟨fun st hq => engineStep_idle hq, fun st t h => engineStep_frame h⟩

/-- Settles O25: the start of KEY_EXPAND has 40 steps to go, and they end in `completed`. -/
theorem keyExpandComputesSchedule : Obligations.KeyExpandComputesSchedule := by
  unfold Obligations.KeyExpandComputesSchedule
  intro st hp hr hb hs
  obtain ⟨u, hrun, hu, hsu⟩ := engineRun_completes (State.Progress.startKeyExp st) hr (by simp)
  refine ⟨startKeyExp st, u, exec_keyExpand_accepted hb, runSteps_of_engineRun 0 hrun hp hs, ?_⟩
  rw [hu, hsu rfl]
  simp [completed, startKeyExp, State.clearStatus, (busy_false_iff st).1 hb]

/-- Settles O26: the start of ENCRYPT_BLOCK has 10 steps to go, and they end in `completed`. -/
theorem encryptComputesCipher : Obligations.EncryptComputesCipher := by
  unfold Obligations.EncryptComputesCipher
  intro st hp hr hb hs hk
  obtain ⟨u, hrun, hu, -⟩ := engineRun_completes (State.Progress.startEnc st) hr (by simp)
  refine ⟨startEnc st, u, exec_encryptBlock_accepted hb hk, runSteps_of_engineRun 0 hrun hp hs, ?_⟩
  rw [hu]
  simp [completed, startEnc, State.clearStatus, (busy_false_iff st).1 hb]

/-- Settles O27: the start of DECRYPT_BLOCK has 10 steps to go, and they end in `completed`. -/
theorem decryptComputesInvCipher : Obligations.DecryptComputesInvCipher := by
  unfold Obligations.DecryptComputesInvCipher
  intro st hp hr hb hs hk
  obtain ⟨u, hrun, hu, -⟩ := engineRun_completes (State.Progress.startDec st) hr (by simp)
  refine ⟨startDec st, u, exec_decryptBlock_accepted hb hk, runSteps_of_engineRun 0 hrun hp hs, ?_⟩
  rw [hu]
  simp [completed, startDec, State.clearStatus, (busy_false_iff st).1 hb]

/-- Settles O48: the invariant holds what `engineRun_completes` asks for, and no command has more than 40 steps. -/
theorem runningCommandEnds : Obligations.RunningCommandEnds := by
  unfold Obligations.RunningCommandEnds
  intro st hi hp hb hs
  have hq := (busy_true_iff st).1 hb
  obtain ⟨u, hrun, hu, -⟩ := engineRun_completes hi.progress (hi.released_of_running hq) hq
  refine ⟨_, u, remaining_le hi.progress, runSteps_of_engineRun 0 hrun hp hs, ?_⟩
  rw [hu, completed_frame hq]
  exact ⟨rfl, rfl, (hi.busy_status hq).1⟩

/-- Settles O49: the completing step looks at neither DROP nor the schedule, so a write dropped before it changes DROP
alone, and a write after it is issued in the completed state. -/
theorem completionTieBothOrders : Obligations.CompletionTieBothOrders := by
  unfold Obligations.CompletionTieBothOrders
  intro st c v rest hp hr hb hstep hidle
  obtain ⟨-, -, hdc, -, hrc, -, hpc, hsc, -⟩ := engineStep_frame hstep
  dsimp only at hdc hpc hsc
  have hdropped := engineStep_drop_schedule true rest hstep
  have hbefore := engineStep_drop_schedule st.drop (.access (.write st.params.aesBase 4 v) :: rest) hstep
  refine ⟨?_, ?_⟩
  · have hw := (step_scheduled_cmd_write st v (.engine :: rest) hp hr).trans (exec_busy _ hb)
    have he := (step_scheduled_engine { st with drop := true } rest hp hr).trans hdropped
    rw [runSteps_of_step 1 hw, runSteps_one]
    exact he.trans (by rw [← hsc])
  · have he := (step_scheduled_engine st _ hp hr).trans hbefore
    rw [runSteps_of_step 1 he, runSteps_one, ← hpc, ← hdc]
    exact (step_scheduled_cmd_write c v rest (hpc ▸ hp) (hrc.trans hr)).trans (by rw [← hsc])

/-- Settles O50: `runTurn_params` and `runTurn_host`. -/
theorem parametersAndHostAreOutside : Obligations.ParametersAndHostAreOutside := by
  unfold Obligations.ParametersAndHostAreOutside
  intro st t h
  obtain ⟨-, hrun⟩ := step_next h
  exact ⟨(runTurn_params hrun).trans (nextTurn_params st),
    fun hne => (runTurn_host hrun hne).trans (nextTurn_host st)⟩

end

section
/-! The facts under the statements about GF(2^8) and the S-box: the product as a chain of xtime, its additivity in each
factor, and the affine map of the S-box undone (40 R135; 41 R150 to R153). -/

namespace Sys2Proof.Machine

/-! ### xtime and the product's chain -/

theorem xtime_xor (a b : Byte) : xtime (a ^^^ b) = xtime a ^^^ xtime b := by
  have hcarry : (if (a ^^^ b).getLsbD 7 then (0x1B : Byte) else 0x00) =
      (if a.getLsbD 7 then 0x1B else 0x00) ^^^ (if b.getLsbD 7 then 0x1B else 0x00) := by
    rw [BitVec.getLsbD_xor]
    cases a.getLsbD 7 <;> cases b.getLsbD 7 <;> rfl
  rw [xtime, xtime, xtime, hcarry, BitVec.shiftLeft_xor_distrib]
  ac_rfl

theorem xtime_iterate_xor (n : Nat) (a b : Byte) : xtime^[n] (a ^^^ b) = xtime^[n] a ^^^ xtime^[n] b := by
  induction n generalizing a b with
  | zero => rfl
  | succ n ih => rw [Function.iterate_succ_apply, Function.iterate_succ_apply, Function.iterate_succ_apply, xtime_xor, ih]

/-- The shift and reduction of the 9-bit loop variable is xtime of its 8 bits (41 R150, R151). -/
theorem gmulShift_setWidth : ∀ a : Byte, gmulShift (a.setWidth 9) = (xtime a).setWidth 9 := by decide

theorem xor_xor_xor_comm (p q a b : Byte) : (p ^^^ q) ^^^ (a ^^^ b) = (p ^^^ a) ^^^ (q ^^^ b) := by
  ac_rfl

theorem xor_right_comm (p q a : Byte) : (p ^^^ q) ^^^ a = (p ^^^ a) ^^^ q := by
  ac_rfl

theorem xor_cancel_common (p q a : Byte) : (p ^^^ a) ^^^ (q ^^^ a) = p ^^^ q := by
  rw [xor_xor_xor_comm, BitVec.xor_self, BitVec.xor_zero]

/-- The XOR of the xtime chain of a over the set bits of b among the given ones (41 R151). -/
def xtimeChain (a b : Byte) (bits : List Nat) (acc : Byte) : Byte :=
  bits.foldl (fun acc n => if b.getLsbD n then acc ^^^ xtime^[n] a else acc) acc

/-- From its iteration k on the loop adds the chain's terms for the bits from k on. -/
theorem gmulLoop_eq_xtimeChain (a b p : Byte) (k n : Nat) :
    gmulLoop n p ((xtime^[k] a).setWidth 9) (b >>> k) = xtimeChain a b (List.range' k n) p := by
  induction n generalizing k p with
  | zero => rfl
  | succ n ih =>
    have hbit : (b >>> k).getLsbD 0 = b.getLsbD k := by simp
    have hnext : gmulShift ((xtime^[k] a).setWidth 9) = (xtime^[k + 1] a).setWidth 9 := by
      rw [gmulShift_setWidth, Function.iterate_succ_apply']
    have hwidth : ((xtime^[k] a).setWidth 9).setWidth 8 = xtime^[k] a := by
      rw [BitVec.setWidth_setWidth_of_le _ (by decide), BitVec.setWidth_eq]
    rw [gmulLoop, hbit, hnext, hwidth, ← BitVec.shiftRight_add, ih, List.range'_succ]
    rfl

theorem gmul_eq_xtimeChain (a b : Byte) : gmul a b = xtimeChain a b (List.range 8) 0 := by
  rw [List.range_eq_range', ← gmulLoop_eq_xtimeChain a b 0 0 8]
  rfl

theorem xtimeChain_xor_right (a b c : Byte) (bits : List Nat) (p q : Byte) :
    xtimeChain a (b ^^^ c) bits (p ^^^ q) = xtimeChain a b bits p ^^^ xtimeChain a c bits q := by
  induction bits generalizing p q with
  | nil => rfl
  | cons n bits ih =>
    have hterm : (if (b ^^^ c).getLsbD n then (p ^^^ q) ^^^ xtime^[n] a else p ^^^ q) =
        (if b.getLsbD n then p ^^^ xtime^[n] a else p) ^^^ (if c.getLsbD n then q ^^^ xtime^[n] a else q) := by
      rw [BitVec.getLsbD_xor]
      cases b.getLsbD n <;> cases c.getLsbD n
      · rfl
      · exact BitVec.xor_assoc p q _
      · exact xor_right_comm p q _
      · simpa using (xor_cancel_common p q (xtime^[n] a)).symm
    simp only [xtimeChain, List.foldl_cons, hterm]
    exact ih _ _

theorem xtimeChain_xor_left (a b c : Byte) (bits : List Nat) (p q : Byte) :
    xtimeChain (a ^^^ b) c bits (p ^^^ q) = xtimeChain a c bits p ^^^ xtimeChain b c bits q := by
  induction bits generalizing p q with
  | nil => rfl
  | cons n bits ih =>
    have hterm : (if c.getLsbD n then (p ^^^ q) ^^^ xtime^[n] (a ^^^ b) else p ^^^ q) =
        (if c.getLsbD n then p ^^^ xtime^[n] a else p) ^^^ (if c.getLsbD n then q ^^^ xtime^[n] b else q) := by
      rw [xtime_iterate_xor]
      cases c.getLsbD n
      · rfl
      · exact xor_xor_xor_comm p q _ _
    simp only [xtimeChain, List.foldl_cons, hterm]
    exact ih _ _

/-! ### Additive maps of bytes -/

/-- A map of bytes that is linear over XOR. -/
def XorAdditive (f : Byte → Byte) : Prop := ∀ x y, f (x ^^^ y) = f x ^^^ f y

theorem XorAdditive.zero {f : Byte → Byte} (hf : XorAdditive f) : f 0 = 0 := by
  have h := hf 0 0
  rwa [BitVec.xor_self, BitVec.xor_self] at h

theorem XorAdditive.comp {f g : Byte → Byte} (hf : XorAdditive f) (hg : XorAdditive g) :
    XorAdditive fun x => f (g x) :=
  fun x y => (congrArg f (hg x y)).trans (hf _ _)

/-- The byte with bit n alone. -/
def bitByte (n : Fin 8) : Byte := 1#8 <<< n.val

/-- The XOR of v n over the set bits n of x. -/
def bitSum (v : Fin 8 → Byte) (x : Byte) : Byte :=
  (List.finRange 8).foldl (fun acc n => if x.getLsbD n.val then acc ^^^ v n else acc) 0

/-- A byte is the XOR of its bits. -/
theorem bitSum_bits : ∀ x : Byte, bitSum bitByte x = x := by decide

/-- An additive map is the XOR of its values at the bits. -/
theorem XorAdditive.eq_bitSum {f : Byte → Byte} (hf : XorAdditive f) (x : Byte) :
    f x = bitSum (fun n => f (bitByte n)) x := by
  have hfold : ∀ (l : List (Fin 8)) (acc : Byte),
      f (l.foldl (fun acc n => if x.getLsbD n.val then acc ^^^ bitByte n else acc) acc) =
        l.foldl (fun acc n => if x.getLsbD n.val then acc ^^^ f (bitByte n) else acc) (f acc) := by
    intro l
    induction l with
    | nil => exact fun _ => rfl
    | cons n l ih =>
      intro acc
      rw [List.foldl_cons, List.foldl_cons, ih]
      split_ifs
      · rw [hf]
      · rfl
  conv_lhs => rw [← bitSum_bits x]
  rw [bitSum, bitSum, hfold, hf.zero]

/-- Two additive maps that agree at the eight bits are equal. -/
theorem XorAdditive.ext {f g : Byte → Byte} (hf : XorAdditive f) (hg : XorAdditive g)
    (h : ∀ n : Fin 8, f (bitByte n) = g (bitByte n)) (x : Byte) : f x = g x := by
  rw [hf.eq_bitSum, hg.eq_bitSum]
  simp only [h]

/-! ### The laws of the product (41 R153) -/

theorem gmul_xor_right (a : Byte) : XorAdditive (gmul a) := fun b c => by
  rw [gmul_eq_xtimeChain, gmul_eq_xtimeChain, gmul_eq_xtimeChain, ← xtimeChain_xor_right, BitVec.xor_self]
  rfl

theorem gmul_xor_left (b : Byte) : XorAdditive fun a => gmul a b := fun a c => by
  simp only [gmul_eq_xtimeChain]
  rw [← xtimeChain_xor_left, BitVec.xor_self]
  rfl

theorem gmul_comm_bits : ∀ n m : Fin 8,
    gmul (bitByte n) (bitByte m) = gmul (bitByte m) (bitByte n) := by decide

theorem gmul_comm (a b : Byte) : gmul a b = gmul b a :=
  XorAdditive.ext (f := gmul a) (g := fun b => gmul b a) (gmul_xor_right a) (gmul_xor_left a)
    (fun m => XorAdditive.ext (f := fun a => gmul a (bitByte m)) (g := fun a => gmul (bitByte m) a)
      (gmul_xor_left _) (gmul_xor_right _) (fun n => gmul_comm_bits n m) a) b

theorem gmul_assoc_bits : ∀ n m k : Fin 8, gmul (gmul (bitByte n) (bitByte m)) (bitByte k) =
    gmul (bitByte n) (gmul (bitByte m) (bitByte k)) := by decide

theorem gmul_assoc (a b c : Byte) : gmul (gmul a b) c = gmul a (gmul b c) := by
  refine XorAdditive.ext (gmul_xor_right _) ((gmul_xor_right a).comp (gmul_xor_right b)) (fun k => ?_) c
  refine XorAdditive.ext (f := fun b => gmul (gmul a b) (bitByte k)) (g := fun b => gmul a (gmul b (bitByte k)))
    ((gmul_xor_left _).comp (gmul_xor_right a)) ((gmul_xor_right a).comp (gmul_xor_left _)) (fun m => ?_) b
  exact XorAdditive.ext (f := fun a => gmul (gmul a (bitByte m)) (bitByte k))
    (g := fun a => gmul a (gmul (bitByte m) (bitByte k)))
    ((gmul_xor_left _).comp (gmul_xor_left _)) (gmul_xor_left _) (fun n => gmul_assoc_bits n m k) a

@[simp] theorem gmul_zero (a : Byte) : gmul a 0#8 = 0#8 := (gmul_xor_right a).zero

@[simp] theorem zero_gmul (b : Byte) : gmul 0#8 b = 0#8 := (gmul_xor_left b).zero

@[simp] theorem one_gmul (b : Byte) : gmul 1#8 b = b :=
  XorAdditive.ext (g := id) (gmul_xor_right 1) (fun _ _ => rfl) (by decide) b

@[simp] theorem gmul_one (a : Byte) : gmul a 1#8 = a := (gmul_comm a 1).trans (one_gmul a)

/-! ### The S-box and the field inverse (40 R135) -/

/-- The affine map of the S-box, bit by bit (40 R135). -/
def affine (y : Byte) (i : Nat) : Bool :=
  (((y.getLsbD i ^^ y.getLsbD ((i + 4) % 8)) ^^ y.getLsbD ((i + 5) % 8)) ^^ y.getLsbD ((i + 6) % 8)) ^^
    (y.getLsbD ((i + 7) % 8) ^^ (0x63 : Byte).getLsbD i)

/-- The affine map undone. -/
def affineInverse (z : Byte) : Byte := z.rotateLeft 1 ^^^ z.rotateLeft 3 ^^^ z.rotateLeft 6 ^^^ 0x05

theorem affine_affineInverse : ∀ (z : Byte) (i : Fin 8), affine (affineInverse z) i = z.getLsbD i := by decide

/-- The multiplicative inverse, read off the S-box. -/
def fieldInverse (x : Byte) : Byte := affineInverse (sbox x)

theorem gmul_fieldInverse : ∀ x : Byte, x ≠ 0 → gmul x (fieldInverse x) = 1 := by decide

/-- The inverse is the only one. -/
theorem eq_fieldInverse {x y : Byte} (h : gmul x y = 1) : y = fieldInverse x := by
  have hx : x ≠ 0 := by
    rintro rfl
    exact absurd ((zero_gmul y).symm.trans h) (by decide)
  calc y = gmul y 1 := (gmul_one y).symm
    _ = gmul y (gmul x (fieldInverse x)) := by rw [gmul_fieldInverse x hx]
    _ = gmul (gmul x y) (fieldInverse x) := by rw [← gmul_assoc, gmul_comm y x]
    _ = fieldInverse x := by rw [h]; exact one_gmul _

theorem xtime_toNat : ∀ a : Byte,
    (xtime a).toNat = if a.toNat < 128 then 2 * a.toNat else (2 * a.toNat) ^^^ 0x11B := by decide

theorem invSbox_sbox : ∀ b : Byte, invSbox (sbox b) = b := by decide

theorem sbox_invSbox : ∀ b : Byte, sbox (invSbox b) = b := by decide

end Sys2Proof.Machine
end

section
/-! The statements of 40_tables and 41_gf_multiplier settled. -/

open Sys2Proof Sys2Proof.Machine

/-- Settles O31: both products of each law are additive in each factor and agree at the bits; the inverse is
`fieldInverse`, and associativity makes it the only one. -/
theorem gmulFieldLaws : Obligations.GmulFieldLaws := by
  unfold Obligations.GmulFieldLaws
  exact fun a b c => ⟨gmul_comm a b, gmul_assoc a b c, gmul_xor_right a b c, gmul_zero a, zero_gmul b, gmul_one a,
    one_gmul b, fun ha => ⟨fieldInverse a, gmul_fieldInverse a ha, fun _ => eq_fieldInverse⟩⟩

/-- Settles O32: the loop of 41 R150 is the chain of xtime. -/
theorem gmulIsXtimeChain : Obligations.GmulIsXtimeChain := by
  unfold Obligations.GmulIsXtimeChain
  exact ⟨gmul_eq_xtimeChain, xtime_toNat⟩

/-- Settles O34: the inverse y is `fieldInverse x`, which is the S-box's entry with the affine map undone. -/
theorem sboxIsAffineOfInverse : Obligations.SboxIsAffineOfInverse := by
  unfold Obligations.SboxIsAffineOfInverse
  refine ⟨by decide, fun x y h i hi => ?_⟩
  rw [eq_fieldInverse h]
  exact (affine_affineInverse (sbox x) ⟨i, hi⟩).symm

/-- Settles O33: the tables looked up at every byte, and the products of the ten round constants. -/
theorem tablesAreAsMade : Obligations.TablesAreAsMade := by
  unfold Obligations.TablesAreAsMade
  have hfixed : ∀ b : Byte, sbox b ≠ b ∧ sbox b ≠ b ^^^ 0xff := by decide
  exact ⟨fun b => ⟨invSbox_sbox b, sbox_invSbox b, hfixed b⟩, rfl, by decide⟩

end

section
/-! The facts under the statements about the round transforms, the ciphers and the messages: column mixing as a
circulant of coefficients, each transform and its inverse, and a block's bytes split and joined (43; 44 R230; 45). -/

namespace Sys2Proof.Machine

/-! ### Column mixing as a circulant -/

/-- The XOR of four bytes. -/
def xorSum (f : Fin 4 → Byte) : Byte := f 0 ^^^ f 1 ^^^ f 2 ^^^ f 3

theorem xorSum_xor (f g : Fin 4 → Byte) : (xorSum fun k => f k ^^^ g k) = xorSum f ^^^ xorSum g := by
  simp only [xorSum]
  ac_rfl

theorem xorSum_comm (f : Fin 4 → Fin 4 → Byte) :
    (xorSum fun k => xorSum fun j => f k j) = xorSum fun j => xorSum fun k => f k j := by
  simp only [xorSum]
  ac_rfl

theorem XorAdditive.map_xorSum {f : Byte → Byte} (hf : XorAdditive f) (g : Fin 4 → Byte) :
    f (xorSum g) = xorSum fun k => f (g k) := by
  simp only [xorSum, hf _ _]

/-- One byte of a column times the circulant matrix whose first row is `coef`. -/
def circulant (coef a : Fin 4 → Byte) (r : Fin 4) : Byte := xorSum fun k => gmul (coef (k - r)) (a k)

/-- The first row of 43 R194's matrix. -/
def mixCoef : Fin 4 → Byte := ![0x02, 0x03, 0x01, 0x01]

/-- The first row of 43 R195's matrix. -/
def invMixCoef : Fin 4 → Byte := ![0x0e, 0x0b, 0x0d, 0x09]

theorem mixColumn_eq_circulant (a : Fin 4 → Byte) (r : Fin 4) :
    mixColumn (a 0) (a 1) (a 2) (a 3) r = circulant mixCoef a r := by
  fin_cases r <;> simp [mixColumn, circulant, xorSum, mixCoef]

theorem invMixColumn_eq_circulant (a : Fin 4 → Byte) (r : Fin 4) :
    invMixColumn (a 0) (a 1) (a 2) (a 3) r = circulant invMixCoef a r := by
  fin_cases r <;> simp [invMixColumn, circulant, xorSum, invMixCoef]

theorem circulant_xor (coef a b : Fin 4 → Byte) (r : Fin 4) :
    circulant coef (fun k => a k ^^^ b k) r = circulant coef a r ^^^ circulant coef b r := by
  simp only [circulant, gmul_xor_right _ _ _, xorSum_xor]

/-- Two circulants whose product is the identity matrix undo each other. -/
theorem circulant_circulant {c d : Fin 4 → Byte} (a : Fin 4 → Byte) (r : Fin 4)
    (h : ∀ r j : Fin 4, (xorSum fun k => gmul (c (k - r)) (d (j - k))) = if j = r then 1 else 0) :
    circulant c (circulant d a) r = a r := by
  have hprod : ∀ j, (xorSum fun k => gmul (c (k - r)) (gmul (d (j - k)) (a j))) = if j = r then a j else 0 := by
    intro j
    simp only [← gmul_assoc]
    rw [← (gmul_xor_left (a j)).map_xorSum, h]
    split_ifs
    · exact one_gmul _
    · exact zero_gmul _
  calc circulant c (circulant d a) r
      = xorSum fun k => xorSum fun j => gmul (c (k - r)) (gmul (d (j - k)) (a j)) := by
        simp only [circulant, (gmul_xor_right _).map_xorSum]
    _ = xorSum fun j => if j = r then a j else 0 := by
        rw [xorSum_comm]
        simp only [hprod]
    _ = a r := by fin_cases r <;> simp [xorSum]

/-- A circulant whose rows add up to 1 keeps a column of equal bytes. -/
theorem circulant_const {coef : Fin 4 → Byte} (x : Byte) (r : Fin 4)
    (h : ∀ r : Fin 4, (xorSum fun k => coef (k - r)) = 1) : circulant coef (fun _ => x) r = x := by
  rw [circulant, ← (gmul_xor_left x).map_xorSum, h]
  exact one_gmul x

theorem cell_mixColumns (m : Matrix) (r c : Fin 4) :
    cell (mixColumns m) r c = circulant mixCoef (fun k => cell m k c) r := by
  rw [mixColumns, cell_mkMatrix, ← mixColumn_eq_circulant]

theorem cell_invMixColumns (m : Matrix) (r c : Fin 4) :
    cell (invMixColumns m) r c = circulant invMixCoef (fun k => cell m k c) r := by
  rw [invMixColumns, cell_mkMatrix, ← invMixColumn_eq_circulant]

/-- A circulant's byte, counted from its own row. -/
theorem circulant_eq_from_row (coef a : Fin 4 → Byte) (r : Fin 4) :
    circulant coef a r = gmul (coef 0) (a r) ^^^ gmul (coef 1) (a (r + 1)) ^^^ gmul (coef 2) (a (r + 2)) ^^^
      gmul (coef 3) (a (r + 3)) := by
  obtain rfl | rfl | rfl | rfl : r = 0 ∨ r = 1 ∨ r = 2 ∨ r = 3 := by omega
  · simp only [circulant, xorSum, sub_zero, zero_add]
  all_goals
    simp only [circulant, xorSum, Fin.reduceSub, Fin.reduceAdd, sub_self]
    ac_rfl

/-! ### Each transform and its inverse (43 R189 to R197) -/

@[simp] theorem cell_subBytes (m : Matrix) (r c : Fin 4) : cell (subBytes m) r c = sbox (cell m r c) :=
  cell_mkMatrix _ r c

@[simp] theorem cell_invSubBytes (m : Matrix) (r c : Fin 4) : cell (invSubBytes m) r c = invSbox (cell m r c) :=
  cell_mkMatrix _ r c

@[simp] theorem cell_shiftRows (m : Matrix) (r c : Fin 4) : cell (shiftRows m) r c = cell m r (c + r) :=
  cell_mkMatrix _ r c

@[simp] theorem cell_invShiftRows (m : Matrix) (r c : Fin 4) : cell (invShiftRows m) r c = cell m r (c - r) :=
  cell_mkMatrix _ r c

@[simp] theorem cell_addRoundKey (w : Schedule) (m : Matrix) (k : Nat) (r c : Fin 4) :
    cell (addRoundKey w m k) r c = cell m r c ^^^ wordByte (schedWord w (4 * k + c.val)) r := by
  rw [addRoundKey, cell_mkMatrix, roundKey, cell_mkMatrix]

@[simp] theorem cell_toState (b : Block) (r c : Fin 4) : cell (toState b) r c = b.getD (4 * c.val + r.val) 0 :=
  cell_mkMatrix _ r c

theorem toBytes_toState (b : Block) : toBytes (toState b) = b := by
  apply Vector.ext
  intro k hk
  have hpos : 4 * (k / 4 % 4) + k % 4 = k := by omega
  simp [toBytes, Fin.ofNat, hpos, Vector.getD, hk]

theorem toState_toBytes (m : Matrix) : toState (toBytes m) = m := by
  refine matrix_ext fun r c => ?_
  have hk : 4 * c.val + r.val < 16 := by omega
  have hrow : (4 * c.val + r.val) % 4 = r.val := by omega
  have hcol : (4 * c.val + r.val) / 4 = c.val := by omega
  rw [cell_toState, block_getD _ _ hk]
  simp [toBytes, hrow, hcol]

theorem invSubBytes_subBytes (m : Matrix) : invSubBytes (subBytes m) = m :=
  matrix_ext fun r c => by simp [invSbox_sbox]

theorem subBytes_invSubBytes (m : Matrix) : subBytes (invSubBytes m) = m :=
  matrix_ext fun r c => by simp [sbox_invSbox]

theorem invShiftRows_shiftRows (m : Matrix) : invShiftRows (shiftRows m) = m :=
  matrix_ext fun r c => by simp

theorem shiftRows_invShiftRows (m : Matrix) : shiftRows (invShiftRows m) = m :=
  matrix_ext fun r c => by simp

theorem invMixColumns_mixColumns (m : Matrix) : invMixColumns (mixColumns m) = m :=
  matrix_ext fun r c => by
    simp only [cell_invMixColumns, cell_mixColumns]
    exact circulant_circulant _ r (by decide)

theorem mixColumns_invMixColumns (m : Matrix) : mixColumns (invMixColumns m) = m :=
  matrix_ext fun r c => by
    simp only [cell_invMixColumns, cell_mixColumns]
    exact circulant_circulant _ r (by decide)

theorem addRoundKey_addRoundKey (w : Schedule) (m : Matrix) (k : Nat) : addRoundKey w (addRoundKey w m k) k = m :=
  matrix_ext fun r c => by simp

theorem subBytes_shiftRows (m : Matrix) : subBytes (shiftRows m) = shiftRows (subBytes m) :=
  matrix_ext fun r c => by simp

theorem invSubBytes_invShiftRows (m : Matrix) : invSubBytes (invShiftRows m) = invShiftRows (invSubBytes m) :=
  matrix_ext fun r c => by simp

/-! ### Each round and its inverse (44 R230) -/

/-- The state before round r of the decryption that undoes an encryption is that encryption's before its round r + 1, with
the bytes substituted and shifted. -/
theorem decStart_encFinal (w : Schedule) (m : Matrix) :
    decStart w (toBytes (encFinal w m)) = shiftRows (subBytes m) := by
  rw [decStart, toState_toBytes, encFinal, addRoundKey_addRoundKey]

theorem decRound_encRound (w : Schedule) (m : Matrix) (r : Nat) :
    decRound w (shiftRows (subBytes (encRound w m r))) r = shiftRows (subBytes m) := by
  rw [decRound, invShiftRows_shiftRows, invSubBytes_subBytes, encRound, addRoundKey_addRoundKey,
    invMixColumns_mixColumns]

theorem decFinal_encStart (w : Schedule) (b : Block) :
    decFinal w (shiftRows (subBytes (encStart w b))) = toState b := by
  rw [decFinal, invShiftRows_shiftRows, invSubBytes_subBytes, encStart, addRoundKey_addRoundKey]

theorem invCipher_cipher (b : Block) (w : Schedule) : invCipher (cipher b w) w = b := by
  simp only [invCipher, cipher, List.foldl_cons, List.foldl_nil, decStart_encFinal, decRound_encRound,
    decFinal_encStart, toBytes_toState]

/-- The same the other way: an encryption's state is the decryption's, with the bytes shifted back and substituted. -/
theorem encStart_decFinal (w : Schedule) (m : Matrix) :
    encStart w (toBytes (decFinal w m)) = invSubBytes (invShiftRows m) := by
  rw [encStart, toState_toBytes, decFinal, addRoundKey_addRoundKey]

theorem encRound_decRound (w : Schedule) (m : Matrix) (r : Nat) :
    encRound w (invSubBytes (invShiftRows (decRound w m r))) r = invSubBytes (invShiftRows m) := by
  rw [encRound, subBytes_invSubBytes, shiftRows_invShiftRows, decRound, mixColumns_invMixColumns,
    addRoundKey_addRoundKey]

theorem encFinal_decStart (w : Schedule) (b : Block) :
    encFinal w (invSubBytes (invShiftRows (decStart w b))) = toState b := by
  rw [encFinal, subBytes_invSubBytes, shiftRows_invShiftRows, decStart, addRoundKey_addRoundKey]

theorem cipher_invCipher (b : Block) (w : Schedule) : cipher (invCipher b w) w = b := by
  simp only [invCipher, cipher, List.foldl_cons, List.foldl_nil, encStart_decFinal, encRound_decRound,
    encFinal_decStart, toBytes_toState]

/-! ### Messages (45 R261 to R263) -/

theorem blockOf_toList_append (b : Block) (l : List Byte) : blockOf (b.toList ++ l) = b := by
  apply Vector.ext
  intro k hk
  simp [blockOf, List.getElem?_append]

theorem toList_blockOf {l : List Byte} (h : l.length = 16) : (blockOf l).toList = l := by
  apply List.ext_getElem
  · simp [h]
  · intro k hk hk'
    simp [blockOf, hk']

theorem splitBlocks_append (b : Block) (l : List Byte) : splitBlocks (b.toList ++ l) = b :: splitBlocks l := by
  have hlen : (b.toList ++ l).length / 16 = l.length / 16 + 1 := by
    rw [List.length_append, Vector.length_toList]
    omega
  rw [splitBlocks, hlen, List.range_succ_eq_map, List.map_cons, List.map_map]
  congr 1
  · exact blockOf_toList_append b l
  · refine List.map_congr_left fun j _ => congrArg blockOf ?_
    simp [Nat.mul_succ, Nat.add_comm, List.drop_append]

theorem splitBlocks_joinBlocks (bs : List Block) : splitBlocks (joinBlocks bs) = bs := by
  induction bs with
  | nil => rfl
  | cons b bs ih => rw [joinBlocks_cons, splitBlocks_append, ih]

theorem joinBlocks_splitBlocks {n : Nat} {l : List Byte} (h : l.length = 16 * n) : joinBlocks (splitBlocks l) = l := by
  induction n generalizing l with
  | zero => obtain rfl := List.length_eq_zero_iff.1 h; rfl
  | succ n ih =>
    have hfirst : (l.take 16).length = 16 := by rw [List.length_take]; omega
    have hrest : (l.drop 16).length = 16 * n := by rw [List.length_drop]; omega
    have hl : l = (blockOf (l.take 16)).toList ++ l.drop 16 := by rw [toList_blockOf hfirst, List.take_append_drop]
    conv_lhs => rw [hl]
    rw [splitBlocks_append, joinBlocks_cons, ih hrest, ← hl]

/-- The padding is what `unpad` accepts and strips (45 R261, R263). -/
theorem unpad_pad (m : List Byte) : unpad (pad m) = .ok m := by
  have hp1 : 1 ≤ padLength m.length := by unfold padLength; omega
  have hp16 : padLength m.length ≤ 16 := by unfold padLength; omega
  have hp : (BitVec.ofNat 8 (padLength m.length)).toNat = padLength m.length := by
    rw [BitVec.toNat_ofNat]
    omega
  have hlen : (pad m).length = m.length + padLength m.length := by simp [pad]
  have hlast : (pad m)[(pad m).length - 1]? = some (BitVec.ofNat 8 (padLength m.length)) := by
    rw [hlen, pad, List.getElem?_append_right (by omega), List.getElem?_replicate_of_lt (by omega)]
  have hstrip : (pad m).length - padLength m.length = m.length := by omega
  rw [unpad_goodFinalByte hlast (hp.symm ▸ hp1) (hp.symm ▸ hp16), hp, hstrip, if_pos]
  · simp [pad]
  · simp [pad, hp]

/-- Each block enciphered and deciphered again gives the bytes back. -/
theorem decipheredBytes_messageEncrypt (w : Schedule) (m : List Byte) :
    decipheredBytes w (messageEncrypt w m) = pad m := by
  rw [decipheredBytes, messageEncrypt, splitBlocks_joinBlocks, List.map_map]
  have hid : ((fun b => invCipher b w) ∘ fun b => cipher b w) = id := funext fun b => invCipher_cipher b w
  rw [hid, List.map_id, joinBlocks_splitBlocks (pad_length m)]

end Sys2Proof.Machine
end

section
/-! The statements of 43_round_transforms settled, and the round trips of 44 R230 and 45. -/

open Sys2Proof Sys2Proof.Machine

/-- Settles O29: each transform cell by cell, and one lemma for each pair of inverses. -/
theorem transformsAreInverse : Obligations.TransformsAreInverse := by
  unfold Obligations.TransformsAreInverse
  refine ⟨fun b r c => ⟨cell_toState b r c, toBytes_toState b⟩, fun w m k r c => ?_, fun w m k => ?_⟩
  · refine ⟨cell_subBytes m r c, cell_invSubBytes m r c, cell_shiftRows m r c, by simp, ?_, ?_,
      cell_addRoundKey w m k r c⟩
    · rw [cell_mixColumns, circulant_eq_from_row]
      simp [mixCoef]
    · rw [cell_invMixColumns, circulant_eq_from_row]
      simp [invMixCoef]
  · exact ⟨toState_toBytes m, invSubBytes_subBytes m, subBytes_invSubBytes m, invShiftRows_shiftRows m,
      shiftRows_invShiftRows m, invMixColumns_mixColumns m, mixColumns_invMixColumns m,
      addRoundKey_addRoundKey w m k, subBytes_shiftRows m, invSubBytes_invShiftRows m⟩

/-- Settles O30: a column of `mixColumns` is a circulant of products, each additive; the rows of both circulants add up
to 1. -/
theorem mixColumnsIsLinear : Obligations.MixColumnsIsLinear := by
  unfold Obligations.MixColumnsIsLinear
  refine ⟨fun m n => matrix_ext fun r c => ?_, fun m c x h r => ?_⟩
  · simp only [cell_mixColumns, cell_mkMatrix, circulant_xor]
  · rw [cell_mixColumns, cell_invMixColumns, funext h]
    exact ⟨circulant_const x r (by decide), circulant_const x r (by decide)⟩

/-- Settles O28: each round of one cipher undoes the other's round with the same round key. -/
theorem cipherRoundTrip : Obligations.CipherRoundTrip := by
  unfold Obligations.CipherRoundTrip
  exact fun w b => ⟨invCipher_cipher b w, cipher_invCipher b w⟩

/-- Settles O56: the blocks of the ciphertext decipher to the padded message, which has a good length. -/
theorem messageRoundTrip : Obligations.MessageRoundTrip := by
  unfold Obligations.MessageRoundTrip
  intro w m
  have hlen : (messageEncrypt w m).length = 16 * (m.length / 16 + 1) := by
    rw [messageEncrypt, joinBlocks_length, List.length_map, splitBlocks_length, pad_length]
    omega
  rw [messageDecrypt_goodLength w (by omega) (by omega), decipheredBytes_messageEncrypt, unpad_pad]

end

section
/-! The facts under the statements about reads, reset, placed words and the host's instructions: what a read answers
(20 R73 to R75), the zero values of 70 R310, and the host's registers (30 R108). -/

namespace Sys2Proof.Machine

/-! ### Reads -/

theorem windowReg_dout : ∀ j : Fin 4, windowReg (BitVec.ofNat 6 (0x30 + 4 * j.val)) = .dout j := by decide

theorem memRead_din {st : State} (hr : st.resetIn = false) (j : Fin 4) :
    memRead st (st.params.aesBase + (0x20 + 4 * j.val)) 4 = .data (laneWord st.din j) := by
  rw [memRead_offset st _ (by omega) (by omega) hr, readRegister, windowReg_din j]

theorem memRead_dout {st : State} (hr : st.resetIn = false) (j : Fin 4) :
    memRead st (st.params.aesBase + (0x30 + 4 * j.val)) 4 = .data (laneWord st.dout j) := by
  rw [memRead_offset st _ (by omega) (by omega) hr, readRegister, windowReg_dout j]

theorem memRead_status {st : State} (hr : st.resetIn = false) :
    memRead st (st.params.aesBase + 0x04) 4 = .data st.statusWord :=
  memRead_offset st 0x04 (by decide) (by decide) hr

/-- CMD, the reserved offsets and KEY read as 0 (20 R75). -/
theorem memRead_zero {st : State} {off : Nat} (hr : st.resetIn = false)
    (hoff : off = 0x00 ∨ off = 0x08 ∨ off = 0x0C ∨ off = 0x10 ∨ off = 0x14 ∨ off = 0x18 ∨ off = 0x1C) :
    memRead st (st.params.aesBase + off) 4 = .data 0 := by
  rw [memRead_offset st off (by omega) (by omega) hr]
  rcases hoff with rfl | rfl | rfl | rfl | rfl | rfl | rfl <;> rfl

theorem access_read {st : State} {addr size : Nat} {v : Word} (h : memRead st addr size = .data v) :
    access (.read addr size) st = .next { st with readData := v } := by
  simp only [access, h]

theorem windowOffset_eq {base addr : Nat} (h : base ≤ addr) :
    windowOffset base addr = BitVec.ofNat 6 (addr - base) := by
  apply BitVec.eq_of_toNat_eq
  simp only [windowOffset, BitVec.toNat_sub, BitVec.toNat_ofNat]
  omega

/-- An access that starts in the window and is not an aligned 32-bit one does not conform (20 R73, R74). -/
theorem windowHit_nonConforming {p : Params} {addr size : Nat} (hlo : p.aesBase ≤ addr) (hhi : addr < p.aesBase + 64)
    (hsize : 0 < size) (h : size ≠ 4 ∨ (addr - p.aesBase) % 4 ≠ 0) :
    windowHit p addr size = .nonConforming (BitVec.ofNat 6 (addr - p.aesBase)) := by
  have hc : ¬ conforming p.aesBase addr size = true := by
    simp only [conforming, Bool.and_eq_true, beq_iff_eq, decide_eq_true_eq]
    omega
  have ht : touchesWindow p.aesBase addr size = true := by
    simp only [touchesWindow, Config.windowBytes, Bool.and_eq_true, decide_eq_true_eq]
    omega
  rw [windowHit, if_neg hc, if_pos ht, windowOffset_eq hlo]

/-- An access that starts in the window is not outside it. -/
theorem windowHit_ne_outside {p : Params} {addr size : Nat} (hlo : p.aesBase ≤ addr) (hhi : addr < p.aesBase + 64)
    (hsize : 0 < size) : windowHit p addr size ≠ .outside := by
  by_cases h : size ≠ 4 ∨ (addr - p.aesBase) % 4 ≠ 0
  · rw [windowHit_nonConforming hlo hhi hsize h]
    simp
  · obtain ⟨off, rfl⟩ := Nat.exists_eq_add_of_le hlo
    obtain rfl : size = 4 := by omega
    rw [windowHit_offset p off (by omega) (by omega)]
    simp

theorem sameWindow.statusWord_eq {x y : State} (h : sameWindow x y) : x.statusWord = y.statusWord := by
  obtain ⟨hdone, hkey, hdrop, herr, -, -, hbusy, -, -⟩ := h
  simp only [State.statusWord, hdone, hkey, hdrop, herr, hbusy]

theorem sameWindow.readRegister_eq {x y : State} (h : sameWindow x y) (off : BitVec 6) :
    readRegister x off = readRegister y off := by
  have hstatus := h.statusWord_eq
  obtain ⟨-, -, -, -, hdin, hdout, -, -, -⟩ := h
  simp only [readRegister, hstatus, hdin, hdout]

/-! ### The values after reset (70 R310) -/

theorem zero_block_getD {k : Nat} (h : k < 16) : Block.zero.getD k 0xff = 0 := by
  simp [Block.zero, Vector.getD, h]

theorem wordByte_zero_schedule {i : Nat} (h : i < 44) (j : Fin 4) : wordByte (schedWord Schedule.zero i) j = 0 := by
  rw [schedWord_lt _ _ h]
  simp [Schedule.zero, KeyWord.zero, wordByte]

theorem cell_zero (r c : Fin 4) : cell Matrix.zero r c = 0 := by
  simp [Matrix.zero, cell]

/-- STATUS reads 0 after reset. -/
theorem statusWord_assertReset (st : State) : (assertReset st).statusWord = 0 := by
  simp only [State.statusWord, busy_eq, assertReset_err, assertReset_drop, assertReset_keyValid, assertReset_done,
    assertReset_seq]
  decide

/-! ### The host -/

theorem hostTurn_of_instr {st : State} {i : HostInstr} (hh : st.host.halted = false)
    (hi : st.host.prog[st.host.pc]? = some i) : hostTurn st = hostExec i st := by
  simp [hostTurn, hh, hi]

/-- A write of tN replaces its entry and keeps the others (30 R108). -/
theorem setHostReg_eq (h : HostAgent) (n : Fin 8) (v : Word) : setHostReg h n v = { h with t := h.t.set n.val v } := by
  have ht : (Vector.ofFn fun k => if k = n then v else h.t[k]) = h.t.set n.val v := by
    apply Vector.ext
    intro k hk
    simp [Vector.getElem_set, Fin.ext_iff, eq_comm]
  rw [setHostReg, ht]

theorem hostExec_rd {st : State} {n : Fin 8} {off : Nat} {v : Word}
    (h : memRead st (st.params.aesBase + off) 4 = .data v) :
    hostExec (.rd n off) st =
      .next { st with host := { st.host with t := st.host.t.set n.val v, pc := st.host.pc + 1 } } := by
  simp only [hostExec, hostRead, h, setHostReg_eq]
  rfl

theorem hostExec_andi (st : State) (n m : Fin 8) (imm : Word) :
    hostExec (.andi n m imm) st = .next { st with
      host := { st.host with t := st.host.t.set n.val (st.host.t[m] &&& imm), pc := st.host.pc + 1 } } := by
  simp only [hostExec, setHostReg_eq]
  rfl

theorem hostExec_bnez (st : State) (n : Fin 8) (l : Nat) :
    hostExec (.bnez n l) st =
      .next { st with host := { st.host with pc := if st.host.t[n] ≠ 0 then l else st.host.pc + 1 } } := by
  simp only [hostExec, hostBranch, bne_iff_ne]
  rfl

theorem hostExec_beqz (st : State) (n : Fin 8) (l : Nat) :
    hostExec (.beqz n l) st =
      .next { st with host := { st.host with pc := if st.host.t[n] = 0 then l else st.host.pc + 1 } } := by
  simp only [hostExec, hostBranch, beq_iff_eq]
  rfl

/-- A table word of 32 bits is the word itself (30 R100). -/
theorem tableWord_thirtyTwo (w : Nat) : tableWord 32 w = BitVec.ofNat 32 w := by
  apply BitVec.eq_of_toNat_eq
  simp [tableWord]

end Sys2Proof.Machine
end

section
/-! The statements about the commands at their issue, reads, reset, placed words and the host's instructions settled. -/

open Sys2Proof Sys2Proof.Machine

/-- Settles O8: the start loads words 0 to 3 by `loadKeyWords`, whose words are `keyChunk`s. -/
theorem keyExpandAccepted : Obligations.KeyExpandAccepted := by
  unfold Obligations.KeyExpandAccepted
  refine fun st hb => ⟨_, exec_keyExpand_accepted hb, fun i hi j => ?_, rfl⟩
  rw [startKeyExp_w, schedWord_loadKeyWords _ _ _ hi]
  split_ifs
  · exact wordByte_keyChunk st.key i j
  · rfl

/-- Settles O9: S is the block with round key 0 added, cell by cell. -/
theorem encryptBlockAccepted : Obligations.EncryptBlockAccepted := by
  unfold Obligations.EncryptBlockAccepted
  refine fun st hb hk => ⟨_, exec_encryptBlock_accepted hb hk, fun r c => ?_, rfl⟩
  rw [startEnc_s, encStart, cell_addRoundKey, cell_toState, Nat.mul_zero, Nat.zero_add]

/-- Settles O10: S is the block with round key 10 added, cell by cell. -/
theorem decryptBlockAccepted : Obligations.DecryptBlockAccepted := by
  unfold Obligations.DecryptBlockAccepted
  refine fun st hb hk => ⟨_, exec_decryptBlock_accepted hb hk, fun r c => ?_, rfl⟩
  rw [startDec_s, decStart, cell_addRoundKey, cell_toState]

/-- Settles O11: the failing check of each command is the report of its error. -/
theorem wrongLengthOrNoKeyIsReported : Obligations.WrongLengthOrNoKeyIsReported := by
  unfold Obligations.WrongLengthOrNoKeyIsReported
  intro len st hb
  have hne : len.toNat ≠ 16 → len ≠ 16 := fun h heq => h (by rw [heq]; rfl)
  rw [exec_keyExpand, exec_encryptBlock, exec_decryptBlock, whileIdle_idle _ hb, whileIdle_idle _ hb,
    whileIdle_idle _ hb, issueKeyExpand_eq, issueBlock_eq, issueBlock_eq]
  refine ⟨fun hlen => ?_, fun hk => ?_, fun hk hlen => ?_⟩
  · rw [if_pos (hne hlen)]
    rfl
  · rw [if_pos hk, if_pos hk]
    exact ⟨rfl, rfl⟩
  · rw [if_neg (by simp [hk]), if_pos (hne hlen), if_neg (by simp [hk]), if_pos (hne hlen)]
    exact ⟨rfl, rfl⟩

/-- Settles O16: one lemma for each register a read can reach; `access` keeps the data in `readData`. -/
theorem registerReads : Obligations.RegisterReads := by
  unfold Obligations.RegisterReads
  exact fun st hr => ⟨fun off hoff => memRead_zero hr hoff, memRead_status hr,
    fun j => ⟨memRead_din hr j, memRead_dout hr j⟩, fun off hlt h4 =>
      ⟨_, memRead_offset st off h4 hlt hr, access_read (memRead_offset st off h4 hlt hr)⟩⟩

/-- Settles O18: `windowHit_nonConforming` gives the offset of the BusError; in reset every access that is not outside
the window is the fault of reset. -/
theorem windowAccessFaults : Obligations.WindowAccessFaults := by
  unfold Obligations.WindowAccessFaults
  intro st addr size v hlo hhi hsize
  refine ⟨fun hr h => ?_, fun hr => ?_⟩
  · simp [memRead, memWrite, windowHit_nonConforming hlo hhi hsize h, hr]
  · have hout := windowHit_ne_outside hlo hhi hsize
    cases hhit : windowHit st.params addr size with
    | outside => exact absurd hhit hout
    | nonConforming off => simp [memRead, memWrite, hhit, hr]
    | register off => simp [memRead, memWrite, hhit, hr]

/-- Settles O19: where an access lands depends on the parameters, and what a register shows on the fields that
`sameWindow` keeps. -/
theorem readsHideTheSecrets : Obligations.ReadsHideTheSecrets := by
  unfold Obligations.ReadsHideTheSecrets
  intro x y addr size h
  have hread := h.readRegister_eq
  obtain ⟨-, -, -, -, -, -, -, hreset, hparams⟩ := h
  simp only [memRead, hread, hreset, hparams]

/-- Settles O37: the assertion writes the values of 70 R310, which the zero lemmas read back, and the release writes the
input alone. -/
theorem resetValues : Obligations.ResetValues := by
  unfold Obligations.ResetValues
  have hzero : ∀ k, k < 16 →
      Block.zero.getD k 0xff = 0 ∧ Block.zero.getD k 0xff = 0 ∧ Block.zero.getD k 0xff = 0 :=
    fun k hk => ⟨zero_block_getD hk, zero_block_getD hk, zero_block_getD hk⟩
  refine ⟨fun st rest hp hs => ?_, fun st rest hp hs => step_of_schedule hp hs, fun st rest hp hs => ?_, rfl, rfl, rfl,
    rfl, rfl, rfl, hzero, fun i hi j => wordByte_zero_schedule hi j, cell_zero, rfl, rfl, rfl⟩
  · exact ⟨_, step_of_schedule hp hs, rfl, rfl, rfl, rfl, rfl, statusWord_assertReset _, hzero,
      fun i hi j => wordByte_zero_schedule hi j, cell_zero, rfl, rfl, rfl, rfl, rfl, rfl, rfl⟩
  · have hassert : step st = .next (assertReset { st with schedule := .releaseReset :: rest }) :=
      step_of_schedule hp hs
    have hrelease : step (assertReset { st with schedule := .releaseReset :: rest }) =
        .next (releaseReset (assertReset { st with schedule := rest })) :=
      step_of_schedule (st := assertReset { st with schedule := .releaseReset :: rest }) hp rfl
    refine ⟨_, (runSteps_of_step 1 hassert).trans ((runSteps_one _).trans hrelease), rfl, rfl, ?_,
      fun v => memWrite_cmd v rfl⟩
    rw [memRead_status rfl]
    exact congrArg _ (statusWord_assertReset { st with schedule := rest })

/-- Settles O38: `step_of_cmd_write`; `withFetchWord` schedules such a write, and a host's `wr CMD` makes it from the
state with the host moved on. -/
theorem stepRunsTheDecodedCommand : Obligations.StepRunsTheDecodedCommand := by
  unfold Obligations.StepRunsTheDecodedCommand
  refine ⟨fun st v rest hp hr hs => step_of_cmd_write hp hr hs, fun st w hp => ?_, fun st v rest hp hr hs hh hi => ?_⟩
  · rw [← tableWord_thirtyTwo]
    exact step_of_cmd_write (st := st.withFetchWord 32 w) hp rfl rfl
  · rw [step_of_schedule hp hs]
    exact (hostTurn_of_instr (st := { st with schedule := rest }) hh hi).trans
      (memWrite_cmd (st := hostAdvance { st with schedule := rest }) v hr)

/-- Settles O51: the write is `memWrite` from the state with the host moved on; one lemma for each other instruction. -/
theorem hostInstructions : Obligations.HostInstructions := by
  unfold Obligations.HostInstructions
  exact fun st n m off l imm => ⟨rfl, rfl, fun v h => hostExec_rd h, hostExec_andi st n m imm, hostExec_bnez st n l,
    hostExec_beqz st n l, rfl⟩

/-- Settles O52: each expansion is the table's by definition. -/
theorem pseudoInstructionsExpand : Obligations.PseudoInstructionsExpand := by
  unfold Obligations.PseudoInstructionsExpand
  exact ⟨fun line len b => ⟨rfl, rfl, rfl, rfl, rfl, rfl, rfl, rfl, rfl, rfl, rfl⟩, fun t0 => beq_iff_eq⟩

end

section
/-! The facts under the statements about the `wait` loop and the driver: runs of host instructions, the pieces of a call
(`lddin`, `ldkey`, a command with its `wait`, `rddout`), whole calls, and calls block after block (30 R109; 45 R260). -/

namespace Sys2Proof.Machine

/-! ### Runs of host instructions -/

/-- n instructions of the host's program, each of them while the engine is idle. -/
def HostRun : Nat → State → State → Prop
  | 0, x, u => x = u
  | n + 1, x, u => x.busy = false ∧ x.host.halted = false ∧
      ∃ i y, x.host.prog[x.host.pc]? = some i ∧ hostExec i x = .next y ∧ HostRun n y u

theorem runTurn_default_idle {st : State} {i : HostInstr} (hb : st.busy = false) (hh : st.host.halted = false)
    (hi : st.host.prog[st.host.pc]? = some i) : runTurn (defaultTurn st) st = hostExec i st := by
  rw [defaultTurn, if_neg (by simp [hb])]
  exact hostTurn_of_instr hh hi

theorem runTurn_default_busy {st : State} (hb : st.busy = true) : runTurn (defaultTurn st) st = engineTurn st := by
  rw [defaultTurn, if_pos hb]
  rfl

theorem hostExec_frame {i : HostInstr} {st t : State} (h : hostExec i st = .next t) :
    t.params = st.params ∧ t.schedule = st.schedule := by
  obtain ⟨off, v, hw⟩ | ⟨ag, rfl⟩ := hostExec_cases h
  · obtain ⟨-, hp, hs, -⟩ := memWrite_frame hw
    exact ⟨hp, hs⟩
  · exact ⟨rfl, rfl⟩

theorem runSteps_of_hostRun {n : Nat} {st u : State} (m : Nat) (h : HostRun n st u) (hp : st.params.ok = true)
    (hs : st.schedule = []) : runSteps (n + m) st = runSteps m u := by
  induction n generalizing st with
  | zero => cases h; rw [Nat.zero_add]
  | succ n ih =>
    obtain ⟨hb, hh, i, y, hi, hy, hrun⟩ := h
    obtain ⟨hpar, hsch⟩ := hostExec_frame hy
    rw [Nat.add_right_comm, runSteps_of_step _ ((step_default hp hs).trans ((runTurn_default_idle hb hh hi).trans hy))]
    exact ih hrun (hpar ▸ hp) (hsch.trans hs)

theorem runProgram_of_hostRun {n : Nat} {st u : State} (m : Nat) (h : HostRun n st u) :
    runProgram (n + m) st = runProgram m u := by
  induction n generalizing st with
  | zero => cases h; rw [Nat.zero_add]
  | succ n ih =>
    obtain ⟨hb, hh, i, y, hi, hy, hrun⟩ := h
    obtain ⟨hpc, -⟩ := List.getElem?_eq_some_iff.1 hi
    rw [Nat.add_right_comm, runProgram_more _ hpc, runTurn_default_idle hb hh hi, hy, andThen_next]
    exact ih hrun

/-- A running command's turns come first in a program too (log 17). -/
theorem runProgram_of_engineRun {n : Nat} {st u : State} (m : Nat) (h : EngineRun n st u)
    (hpc : st.host.pc < st.host.prog.length) : runProgram (n + m) st = runProgram m u := by
  induction n generalizing st with
  | zero => cases h; rw [Nat.zero_add]
  | succ n ih =>
    obtain ⟨hb, y, hy, hrun⟩ := h
    obtain ⟨hhost, -⟩ := engineTurn_frame hy
    rw [Nat.add_right_comm, runProgram_more _ hpc, runTurn_default_busy hb, hy, andThen_next]
    exact ih hrun (hhost ▸ hpc)

theorem HostRun.step {n : Nat} {st t u : State} {i : HostInstr} (hb : st.busy = false) (hh : st.host.halted = false)
    (hi : st.host.prog[st.host.pc]? = some i) (ht : hostExec i st = .next t) (hrun : HostRun n t u) :
    HostRun (n + 1) st u :=
  ⟨hb, hh, i, t, hi, ht, hrun⟩

/-! ### The pieces of a call -/

theorem statusWord_and_one {st : State} (hb : st.busy = false) : st.statusWord &&& 1#32 = 0#32 := by
  apply BitVec.eq_of_getLsbD_eq
  intro k hk
  obtain ⟨hbusy, -⟩ := statusWord_flags st
  rw [BitVec.getLsbD_and, BitVec.getLsbD_one, BitVec.getLsbD_zero]
  by_cases h0 : k = 0
  · rw [h0, hbusy, hb, Bool.false_and]
  · simp [h0]

/-- The host after `wait` has read the final STATUS. -/
def afterWait (ag : HostAgent) (status : Word) : HostAgent :=
  { ag with t := (ag.t.set 0 status).set 1 0, pc := ag.pc + 3 }

/-- From an idle engine the `wait` loop is passed once (30 R109). -/
theorem hostRun_wait {st : State} {ag : HostAgent} {l : Nat} (hb : st.busy = false) (hr : st.resetIn = false)
    (hh : ag.halted = false) (h0 : ag.prog[ag.pc]? = some (.rd 0 offStatus))
    (h1 : ag.prog[ag.pc + 1]? = some (.andi 1 0 0x1)) (h2 : ag.prog[ag.pc + 2]? = some (.bnez 1 l)) :
    HostRun 3 (withHost st ag) (withHost st (afterWait ag st.statusWord)) := by
  have hread : memRead (withHost st ag) ((withHost st ag).params.aesBase + offStatus) 4 = .data st.statusWord :=
    memRead_status (st := withHost st ag) hr
  refine ⟨hb, hh, _, _, h0, hostExec_rd hread, hb, hh, _, _, h1, hostExec_andi _ _ _ _, hb, hh, _, _, h2,
    hostExec_bnez _ _ _, ?_⟩
  simp [HostRun, withHost, afterWait, statusWord_and_one hb]

/-- The host after `rddout` (30 R109). -/
def afterRddout (ag : HostAgent) (b : Block) : HostAgent :=
  { ag with t := (((ag.t.set 4 (laneWord b 0)).set 5 (laneWord b 1)).set 6 (laneWord b 2)).set 7 (laneWord b 3)
            pc := ag.pc + 4 }

theorem hostExec_rd_dout {st : State} (hr : st.resetIn = false) (ag : HostAgent) (n : Fin 8) (j : Fin 4) :
    hostExec (.rd n (offDout j)) (withHost st ag) =
      .next (withHost st { ag with t := ag.t.set n.val (laneWord st.dout j), pc := ag.pc + 1 }) :=
  hostExec_rd (memRead_dout (st := withHost st ag) hr j)

theorem hostRun_rddout {st : State} {ag : HostAgent} (hb : st.busy = false) (hr : st.resetIn = false)
    (hh : ag.halted = false) (h0 : ag.prog[ag.pc]? = some (.rd 4 (offDout 0)))
    (h1 : ag.prog[ag.pc + 1]? = some (.rd 5 (offDout 1))) (h2 : ag.prog[ag.pc + 2]? = some (.rd 6 (offDout 2)))
    (h3 : ag.prog[ag.pc + 3]? = some (.rd 7 (offDout 3))) :
    HostRun 4 (withHost st ag) (withHost st (afterRddout ag st.dout)) :=
  ⟨hb, hh, _, _, h0, hostExec_rd_dout hr _ 4 0, hb, hh, _, _, h1, hostExec_rd_dout hr _ 5 1, hb, hh, _, _, h2,
    hostExec_rd_dout hr _ 6 2, hb, hh, _, _, h3, hostExec_rd_dout hr _ 7 3, rfl⟩

/-- The state with KEY, DIN and the host replaced. -/
def withInputs (st : State) (k d : Block) (ag : HostAgent) : State := { st with key := k, din := d, host := ag }

theorem withInputs_busy (st : State) (k d : Block) (ag : HostAgent) : (withInputs st k d ag).busy = st.busy := rfl

theorem hostExec_wrImm_din {st : State} (hb : st.busy = false) (hr : st.resetIn = false) (k d : Block) (ag : HostAgent)
    (j : Fin 4) (v : Word) :
    hostExec (.wrImm (offDin j) v) (withInputs st k d ag) =
      .next (withInputs st k (setLane d j v) { ag with pc := ag.pc + 1 }) :=
  (memWrite_din (st := hostAdvance (withInputs st k d ag)) v hr j).trans (whileIdle_idle _ hb)

theorem hostExec_wrImm_key {st : State} (hb : st.busy = false) (hr : st.resetIn = false) (k d : Block) (ag : HostAgent)
    (j : Fin 4) (v : Word) :
    hostExec (.wrImm (offKey j) v) (withInputs st k d ag) =
      .next (withInputs st (setLane k j v) d { ag with pc := ag.pc + 1 }) :=
  (memWrite_key (st := hostAdvance (withInputs st k d ag)) v hr j).trans (whileIdle_idle _ hb)

theorem hostExec_wrImm_cmd {st : State} (hr : st.resetIn = false) (v : Word) :
    hostExec (.wrImm offCmd v) st = exec (decode v) (hostAdvance st) :=
  memWrite_cmd (st := hostAdvance st) v hr

/-- A word register's value is made of its four bytes (20 R70). -/
theorem laneByte_laneWord (b : Block) (j : Fin 4) {i : Nat} (h : i < 4) :
    laneByte (laneWord b j) i = b.getD (4 * j.val + i) 0 := by
  rw [laneWord, laneByte_append _ _ _ _ i h]
  obtain rfl | rfl | rfl | rfl : i = 0 ∨ i = 1 ∨ i = 2 ∨ i = 3 := by omega
  all_goals rfl

/-- A word of b written to its own word register puts b's bytes there. -/
theorem setLane_laneWord_getD (a b : Block) (j : Fin 4) {k : Nat} (hk : k < 16) :
    (setLane a j (laneWord b j)).getD k 0 = if k / 4 = j.val then b.getD k 0 else a.getD k 0 := by
  rw [setLane_getD _ _ _ _ hk, laneByte_laneWord _ _ (Nat.mod_lt k (by decide))]
  split_ifs with h
  · rw [← h, Nat.div_add_mod]
  · rfl

/-- A block's four words written one after the other make the block (20 R70). -/
theorem setLane_laneWords (a b : Block) :
    setLane (setLane (setLane (setLane a 0 (laneWord b 0)) 1 (laneWord b 1)) 2 (laneWord b 2)) 3 (laneWord b 3) = b := by
  apply Vector.ext
  intro k hk
  rw [← block_getD _ k hk, ← block_getD _ k hk]
  simp only [setLane_laneWord_getD _ _ _ hk]
  obtain h | h | h | h : k / 4 = 0 ∨ k / 4 = 1 ∨ k / 4 = 2 ∨ k / 4 = 3 := by omega
  all_goals simp [h]

/-- `lddin` loads the block into DIN (30 R109). -/
theorem hostRun_lddin {st : State} {ag : HostAgent} (hb : st.busy = false) (hr : st.resetIn = false)
    (hh : ag.halted = false) (k d b : Block)
    (h0 : ag.prog[ag.pc]? = some (.wrImm (offDin 0) (laneWord b 0)))
    (h1 : ag.prog[ag.pc + 1]? = some (.wrImm (offDin 1) (laneWord b 1)))
    (h2 : ag.prog[ag.pc + 2]? = some (.wrImm (offDin 2) (laneWord b 2)))
    (h3 : ag.prog[ag.pc + 3]? = some (.wrImm (offDin 3) (laneWord b 3))) :
    HostRun 4 (withInputs st k d ag) (withInputs st k b { ag with pc := ag.pc + 4 }) := by
  have hidle := fun k d ag => (withInputs_busy st k d ag).trans hb
  rw [← setLane_laneWords d b]
  exact .step (hidle _ _ _) hh h0 (hostExec_wrImm_din hb hr _ _ _ 0 _) <|
    .step (hidle _ _ _) hh h1 (hostExec_wrImm_din hb hr _ _ _ 1 _) <|
    .step (hidle _ _ _) hh h2 (hostExec_wrImm_din hb hr _ _ _ 2 _) <|
    .step (hidle _ _ _) hh h3 (hostExec_wrImm_din hb hr _ _ _ 3 _) rfl

/-- `ldkey` loads the block into KEY (30 R109). -/
theorem hostRun_ldkey {st : State} {ag : HostAgent} (hb : st.busy = false) (hr : st.resetIn = false)
    (hh : ag.halted = false) (k d b : Block)
    (h0 : ag.prog[ag.pc]? = some (.wrImm (offKey 0) (laneWord b 0)))
    (h1 : ag.prog[ag.pc + 1]? = some (.wrImm (offKey 1) (laneWord b 1)))
    (h2 : ag.prog[ag.pc + 2]? = some (.wrImm (offKey 2) (laneWord b 2)))
    (h3 : ag.prog[ag.pc + 3]? = some (.wrImm (offKey 3) (laneWord b 3))) :
    HostRun 4 (withInputs st k d ag) (withInputs st b d { ag with pc := ag.pc + 4 }) := by
  have hidle := fun k d ag => (withInputs_busy st k d ag).trans hb
  rw [← setLane_laneWords k b]
  exact .step (hidle _ _ _) hh h0 (hostExec_wrImm_key hb hr _ _ _ 0 _) <|
    .step (hidle _ _ _) hh h1 (hostExec_wrImm_key hb hr _ _ _ 1 _) <|
    .step (hidle _ _ _) hh h2 (hostExec_wrImm_key hb hr _ _ _ 2 _) <|
    .step (hidle _ _ _) hh h3 (hostExec_wrImm_key hb hr _ _ _ 3 _) rfl

/-- A command's write and its `wait`: the command runs to its end before the host's next instruction, so STATUS is read
once (30 R109; log 17). -/
theorem runProgram_command {x y u : State} {n l : Nat} {v : Word} (m : Nat) (hb : x.busy = false)
    (hr : x.resetIn = false) (hh : x.host.halted = false)
    (h0 : x.host.prog[x.host.pc]? = some (.wrImm offCmd v))
    (h1 : x.host.prog[x.host.pc + 1]? = some (.rd 0 offStatus))
    (h2 : x.host.prog[x.host.pc + 2]? = some (.andi 1 0 0x1))
    (h3 : x.host.prog[x.host.pc + 3]? = some (.bnez 1 l))
    (hex : exec (decode v) (hostAdvance x) = .next y) (hrun : EngineRun n y u) (hu : u.busy = false) :
    runProgram (1 + (n + (3 + m))) x = runProgram m (withHost u (afterWait (hostAdvance x).host u.statusWord)) := by
  obtain ⟨hyhost, -, -, hyr⟩ := exec_frame hex
  obtain ⟨huhost, -, -, hur⟩ := engineRun_frame hrun
  have hissue : HostRun 1 x y := .step hb hh h0 ((hostExec_wrImm_cmd hr v).trans hex) rfl
  have hpc : y.host.pc < y.host.prog.length := by
    rw [hyhost]
    exact (List.getElem?_eq_some_iff.1 h1).1
  have hwait := hostRun_wait (ag := (hostAdvance x).host) hu (hur.trans (hyr.trans hr)) hh h1 h2 h3
  have hself : withHost u (hostAdvance x).host = u := by
    rw [← hyhost, ← huhost]
    rfl
  rw [hself] at hwait
  rw [runProgram_of_hostRun _ hissue, runProgram_of_engineRun _ hrun hpc, runProgram_of_hostRun _ hwait]

/-! ### Whole calls -/

/-- The host at an instruction of a call's program. -/
def atInstr (ag : HostAgent) (prog : List HostInstr) (pc : Nat) : HostAgent :=
  { ag with prog := prog, pc := pc, halted := false }

/-- OP of a block command's word. -/
def blockOpcode : BlockOp → Word
  | .encrypt => 0x2
  | .decrypt => 0x3

/-- The command of a block call. -/
def blockCommand : BlockOp → BitVec 8 → Instr
  | .encrypt, len => .encryptBlock len
  | .decrypt, len => .decryptBlock len

theorem decode_encryptWord : ∀ len : BitVec 8, decode (commandWord 0x2 len) = .encryptBlock len := by decide

theorem decode_decryptWord : ∀ len : BitVec 8, decode (commandWord 0x3 len) = .decryptBlock len := by decide

theorem decode_keyExpandWord : ∀ len : BitVec 8, decode (commandWord 0x1 len) = .keyExpand len := by decide

theorem decode_blockWord (op : BlockOp) (len : BitVec 8) :
    decode (commandWord (blockOpcode op) len) = blockCommand op len := by
  cases op with
  | encrypt => exact decode_encryptWord len
  | decrypt => exact decode_decryptWord len

/-- The program of a block call (30 R109). -/
def blockProgram (op : BlockOp) (len : BitVec 8) (b : Block) : List HostInstr :=
  loadInstrs offDin b ++ commandInstrs (blockOpcode op) len ++ rddoutInstrs

theorem assemble_blockLines (op : BlockOp) (len : BitVec 8) (b : Block) :
    assemble (blockLines op len b) = some (blockProgram op len b) := by
  cases op with
  | encrypt => exact assemble_blockLines_encrypt len b
  | decrypt => exact assemble_blockLines_decrypt len b

/-- The state in which a block call issues its command: DIN loaded, the host past the write. -/
def blockIssued (op : BlockOp) (len : BitVec 8) (b : Block) (st : State) : State :=
  withInputs st st.key b (atInstr st.host (blockProgram op len b) 5)

/-- The host's own state after a block call: its program as before, t0, t1 and t4 to t7 written. -/
def afterBlockLines (ag : HostAgent) (status : Word) (b : Block) : HostAgent :=
  { ag with t := (afterRddout (afterWait ag status) b).t }

/-- A block call runs its lines to their end around the outcome y of its issue and the end u of its command. -/
theorem callHost_block {op : BlockOp} {len : BitVec 8} {b : Block} {st y u : State} {n : Nat} (hb : st.busy = false)
    (hr : st.resetIn = false) (hex : exec (blockCommand op len) (blockIssued op len b st) = .next y)
    (hrun : EngineRun n y u) (hn : n ≤ 40) (hu : u.busy = false) :
    callHost (blockLines op len b) st = .next (withHost u (afterBlockLines st.host u.statusWord u.dout)) := by
  have hload := hostRun_lddin (ag := atInstr st.host (blockProgram op len b) 0) hb hr rfl st.key st.din b rfl rfl rfl rfl
  obtain ⟨-, -, -, hyr⟩ := exec_frame hex
  obtain ⟨-, -, -, hur⟩ := engineRun_frame hrun
  have hread := hostRun_rddout
    (ag := afterWait (atInstr st.host (blockProgram op len b) 5) u.statusWord) hu (hur.trans (hyr.trans hr)) rfl rfl rfl
    rfl rfl
  rw [← decode_blockWord] at hex
  have hcmd := runProgram_command (x := withInputs st st.key b (atInstr st.host (blockProgram op len b) 4))
    (4 + (88 - n)) hb hr rfl rfl rfl rfl rfl hex hrun hu
  have hfuel : callTurns = 4 + (1 + (n + (3 + (4 + (88 - n))))) := by
    unfold callTurns
    omega
  have hrunall : runProgram callTurns (loadProgram (blockProgram op len b) st) =
      .next (withHost u (afterRddout (afterWait (atInstr st.host (blockProgram op len b) 5) u.statusWord) u.dout)) := by
    rw [hfuel]
    exact (runProgram_of_hostRun _ hload).trans
      (hcmd.trans ((runProgram_of_hostRun _ hread).trans (runProgram_done _ (Nat.le_refl 12))))
  rw [callHost, assemble_blockLines, Option.getD_some, hrunall, andThen_next]
  rfl

/-! ### A construction -/

/-- The program of a construction (30 R109). -/
def constructProgram (len : BitVec 8) (k : Block) : List HostInstr := loadInstrs offKey k ++ commandInstrs 0x1 len

/-- The state in which a construction issues its command. -/
def constructIssued (len : BitVec 8) (k : Block) (st : State) : State :=
  withInputs st k st.din (atInstr st.host (constructProgram len k) 5)

/-- The host's own state after a construction: its program as before, t0 and t1 written. -/
def afterConstructLines (ag : HostAgent) (status : Word) : HostAgent := { ag with t := (afterWait ag status).t }

/-- A construction runs its lines to their end around the outcome y of its issue and the end u of its command. -/
theorem callHost_construct {len : BitVec 8} {k : Block} {st y u : State} {n : Nat} (hb : st.busy = false)
    (hr : st.resetIn = false) (hex : exec (.keyExpand len) (constructIssued len k st) = .next y)
    (hrun : EngineRun n y u) (hn : n ≤ 40) (hu : u.busy = false) :
    callHost (constructLines len k) st = .next (withHost u (afterConstructLines st.host u.statusWord)) := by
  have hload := hostRun_ldkey (ag := atInstr st.host (constructProgram len k) 0) hb hr rfl st.key st.din k rfl rfl rfl rfl
  rw [← decode_keyExpandWord] at hex
  have hcmd := runProgram_command (x := withInputs st k st.din (atInstr st.host (constructProgram len k) 4))
    (92 - n) hb hr rfl rfl rfl rfl rfl hex hrun hu
  have hfuel : callTurns = 4 + (1 + (n + (3 + (92 - n)))) := by
    unfold callTurns
    omega
  have hrunall : runProgram callTurns (loadProgram (constructProgram len k) st) =
      .next (withHost u (afterWait (atInstr st.host (constructProgram len k) 5) u.statusWord)) := by
    rw [hfuel]
    exact (runProgram_of_hostRun _ hload).trans (hcmd.trans (runProgram_done _ (Nat.le_refl 8)))
  rw [callHost, assemble_constructLines, Option.getD_some, ← constructProgram, hrunall, andThen_next]
  rfl

/-! ### The check of t0, and what a call answers -/

/-- STATUS of an idle engine after a completion: DONE and KEY_VALID, nothing else. -/
theorem statusWord_of_completed {st : State} (hb : st.busy = false) (hd : st.done = true) (hk : st.keyValid = true)
    (hdrop : st.drop = false) (herr : st.err = 0) : st.statusWord = 0x00000006 := by
  rw [State.statusWord, hb, hd, hk, hdrop, herr]
  decide

/-- STATUS after a rejected issue: the error's code and KEY_VALID, nothing else (60 R282). -/
theorem statusWord_of_rejected {st : State} {e : CmdError} (hb : st.busy = false) (hd : st.done = false)
    (hdrop : st.drop = false) (herr : st.err = e.code) :
    hostCheck st.statusWord = false ∧ st.statusWord.extractLsb' 8 4 = e.code := by
  rw [State.statusWord, hb, hd, hdrop, herr]
  cases e <;> cases st.keyValid <;> decide

/-- A call whose final STATUS says DONE and no error gives its caller the value (30 R109; 70 R321). -/
theorem checkedResult_ok {α : Type} (value : HostAgent → α) {ag : HostAgent} (h : ag.t[0] = 0x00000006) :
    checkedResult value ag = .ok (value ag) := by
  have hreg : hostReg ag 0 = 0x00000006 := h
  rw [checkedResult, hreg, if_pos (by decide)]

/-- A call whose command was rejected gives its caller the code (45 R265). -/
theorem checkedResult_rejected {α : Type} (value : HostAgent → α) {ag : HostAgent} {st : State} {e : CmdError}
    (h : ag.t[0] = st.statusWord) (hb : st.busy = false) (hd : st.done = false) (hdrop : st.drop = false)
    (herr : st.err = e.code) : checkedResult value ag = .error (.command e.code) := by
  obtain ⟨hcheck, hcode⟩ := statusWord_of_rejected hb hd hdrop herr
  have hreg : hostReg ag 0 = st.statusWord := h
  rw [checkedResult, hreg, hcheck, hcode]
  rfl

/-- The state after a construction whose command has ended in u: the host back at its own program, t0 and t1 written. -/
def constructEnd (st u : State) : State := withHost u (afterConstructLines st.host u.statusWord)

theorem constructEnd_status (st u : State) : (constructEnd st u).host.t[0] = u.statusWord := by
  simp [constructEnd, afterConstructLines, afterWait]

/-- A construction is its lines around the outcome of its issue, and then the check of t0. -/
theorem driveConstruct_of_issue {len : BitVec 8} {k : Block} {st y u : State} {n : Nat} (hb : st.busy = false)
    (hr : st.resetIn = false) (hex : exec (.keyExpand len) (constructIssued len k st) = .next y)
    (hrun : EngineRun n y u) (hn : n ≤ 40) (hu : u.busy = false) :
    driveConstruct len k st = .next (constructEnd st u, checkedResult (fun _ => ()) (constructEnd st u).host) := by
  rw [driveConstruct, driveCall, callHost_construct hb hr hex hrun hn hu]
  rfl

/-- The state after a block call whose command has ended in u: the host back at its own program, its registers
written. -/
def blockCallEnd (st u : State) : State := withHost u (afterBlockLines st.host u.statusWord u.dout)

theorem blockCallEnd_status (st u : State) : (blockCallEnd st u).host.t[0] = u.statusWord := by
  simp [blockCallEnd, afterBlockLines, afterRddout, afterWait]

/-- The block read back from t4 to t7 is DOUT (30 R109). -/
theorem doutRegs_blockCallEnd (st u : State) : doutRegs (blockCallEnd st u).host = u.dout := by
  conv_rhs => rw [← setLane_laneWords Block.zero u.dout]
  simp [doutRegs, hostReg, blockCallEnd, afterBlockLines, afterRddout]

/-- The host's registers after a block call are those of `afterBlockCall`. -/
theorem afterBlockCall_blockCallEnd (st u : State) : afterBlockCall st (blockCallEnd st u) := by
  refine ⟨blockCallEnd_status st u, ?_, ?_, ?_, ?_, ?_, ?_, ?_, rfl, rfl, rfl⟩ <;>
    simp [blockCallEnd, afterBlockLines, afterRddout, afterWait]

/-- One block call after another leaves the host as the last. -/
theorem afterBlockCall.trans {x y z : State} (h : afterBlockCall x y) (h' : afterBlockCall y z) :
    afterBlockCall x z := by
  obtain ⟨-, -, h2, h3, -, -, -, -, hprog, hpc, hhalt⟩ := h
  obtain ⟨g0, g1, g2, g3, g4, g5, g6, g7, gprog, gpc, ghalt⟩ := h'
  exact ⟨g0, g1, g2.trans h2, g3.trans h3, g4, g5, g6, g7, gprog.trans hprog, gpc.trans hpc, ghalt.trans hhalt⟩

/-! ### Block calls -/

/-- What a block call computes under the schedule W. -/
def blockFunction : BlockOp → Schedule → Block → Block
  | .encrypt, w, b => cipher b w
  | .decrypt, w, b => invCipher b w

theorem blockFunction_encrypt (w : Schedule) : blockFunction .encrypt w = fun b => cipher b w := rfl

theorem blockFunction_decrypt (w : Schedule) : blockFunction .decrypt w = fun b => invCipher b w := rfl

/-- A block call is its lines around the outcome of its issue, and then the check of t0. -/
theorem driveBlock_of_issue {op : BlockOp} {len : BitVec 8} {b : Block} {st y u : State} {n : Nat}
    (hb : st.busy = false) (hr : st.resetIn = false)
    (hex : exec (blockCommand op len) (blockIssued op len b st) = .next y) (hrun : EngineRun n y u) (hn : n ≤ 40)
    (hu : u.busy = false) :
    driveBlock op len b st = .next (blockCallEnd st u, checkedResult doutRegs (blockCallEnd st u).host) := by
  rw [driveBlock, driveCall, callHost_block hb hr hex hrun hn hu]
  rfl

/-- The accepted command of a block call ends idle with its result in DOUT. -/
theorem blockCommand_completes (op : BlockOp) {x : State} (hb : x.busy = false) (hr : x.resetIn = false)
    (hk : x.keyValid = true) :
    ∃ y u n, exec (blockCommand op 16) x = .next y ∧ EngineRun n y u ∧ n ≤ 40 ∧
      u = { x with done := true, drop := false, err := 0, dout := blockFunction op x.w x.din, s := u.s, rnd := u.rnd } := by
  have hidle := (busy_false_iff x).1 hb
  cases op with
  | encrypt =>
    obtain ⟨u, hrun, hu, -⟩ := engineRun_completes (State.Progress.startEnc x) hr (by simp)
    refine ⟨_, u, _, exec_encryptBlock_accepted hb hk, hrun, remaining_le (State.Progress.startEnc x), hu.trans ?_⟩
    simp [completed, startEnc, State.clearStatus, hidle, blockFunction]
  | decrypt =>
    obtain ⟨u, hrun, hu, -⟩ := engineRun_completes (State.Progress.startDec x) hr (by simp)
    refine ⟨_, u, _, exec_decryptBlock_accepted hb hk, hrun, remaining_le (State.Progress.startDec x), hu.trans ?_⟩
    simp [completed, startDec, State.clearStatus, hidle, blockFunction]

/-- The error of a block command that is rejected: NO_KEY goes first (60 R283). -/
def blockError (keyValid : Bool) : CmdError := if keyValid then .invalidBlockLength else .noKey

theorem blockCommand_rejected (op : BlockOp) {len : BitVec 8} {x : State} (hb : x.busy = false)
    (h : x.keyValid = false ∨ len ≠ 16) :
    exec (blockCommand op len) x = .next (reportCmdError (blockError x.keyValid) x) := by
  have hissue : ∀ start, issueBlock start len x = reportCmdError (blockError x.keyValid) x := by
    intro start
    rw [issueBlock_eq]
    cases hk : x.keyValid with
    | false => rfl
    | true =>
      rw [if_neg (by decide), if_pos (h.resolve_left (by simp [hk]))]
      rfl
  cases op with
  | encrypt => rw [blockCommand, exec_encryptBlock, whileIdle_idle _ hb, hissue]
  | decrypt => rw [blockCommand, exec_decryptBlock, whileIdle_idle _ hb, hissue]

/-- What a block call with a key leaves: the schedule as it was, the engine idle with its final STATUS, and the host at
its own program. -/
structure BlockCallDone (st t : State) : Prop where
  busy : t.busy = false
  keyValid : t.keyValid = true
  w : t.w = st.w
  key : t.key = st.key
  resetIn : t.resetIn = st.resetIn
  status : t.statusWord = 0x00000006
  host : afterBlockCall st t

theorem BlockCallDone.trans {x y z : State} (h : BlockCallDone x y) (h' : BlockCallDone y z) : BlockCallDone x z :=
  ⟨h'.busy, h'.keyValid, h'.w.trans h.w, h'.key.trans h.key, h'.resetIn.trans h.resetIn, h'.status,
    h.host.trans h'.host⟩

/-- A block call with a key returns the cipher's block (44 R233; 45 R260). -/
theorem driveBlock_ok (op : BlockOp) (b : Block) {st : State} (hb : st.busy = false) (hr : st.resetIn = false)
    (hk : st.keyValid = true) :
    ∃ t, driveBlock op 16 b st = .next (t, .ok (blockFunction op st.w b)) ∧ BlockCallDone st t := by
  obtain ⟨y, u, n, hex, hrun, hn, hu⟩ := blockCommand_completes op (x := blockIssued op 16 b st) hb hr hk
  have hub : u.busy = false := by rw [hu]; exact hb
  have hstatus : u.statusWord = 0x00000006 := by rw [hu]; exact statusWord_of_completed hb rfl hk rfl rfl
  have hdout : u.dout = blockFunction op st.w b := by rw [hu]; rfl
  refine ⟨blockCallEnd st u, ?_, ?_⟩
  · rw [driveBlock_of_issue hb hr hex hrun hn hub, checkedResult_ok _ ((blockCallEnd_status st u).trans hstatus),
      doutRegs_blockCallEnd, hdout]
  · exact
      { busy := hub
        keyValid := (congrArg State.keyValid hu).trans hk
        w := (congrArg State.w hu :)
        key := (congrArg State.key hu :)
        resetIn := (congrArg State.resetIn hu :)
        status := hstatus
        host := afterBlockCall_blockCallEnd st u }

/-- What a rejected block call leaves: DIN loaded, STATUS with the error's code, the engine's other items as they were, and
the host at its own program. -/
structure BlockCallRejected (b : Block) (st t : State) : Prop where
  busy : t.busy = false
  done : t.done = false
  drop : t.drop = false
  err : t.err = (blockError st.keyValid).code
  din : t.din = b
  dout : t.dout = st.dout
  w : t.w = st.w
  key : t.key = st.key
  keyValid : t.keyValid = st.keyValid
  host : afterBlockCall st t

/-- A block call without a key or of a wrong length returns the error's code, and the command changes STATUS alone
(45 R265; 60 R282). -/
theorem driveBlock_rejected (op : BlockOp) {len : BitVec 8} (b : Block) {st : State} (hb : st.busy = false)
    (hr : st.resetIn = false) (h : st.keyValid = false ∨ len ≠ 16) :
    ∃ t, driveBlock op len b st = .next (t, .error (.command (blockError st.keyValid).code)) ∧
      BlockCallRejected b st t := by
  have hex : exec (blockCommand op len) (blockIssued op len b st) =
      .next (reportCmdError (blockError st.keyValid) (blockIssued op len b st)) := blockCommand_rejected op hb h
  have hcheck := checkedResult_rejected doutRegs
    (blockCallEnd_status st (reportCmdError (blockError st.keyValid) (blockIssued op len b st))) hb rfl rfl rfl
  refine ⟨_, (driveBlock_of_issue hb hr hex (n := 0) rfl (Nat.zero_le 40) hb).trans (by rw [hcheck]), ?_⟩
  exact ⟨hb, rfl, rfl, rfl, rfl, rfl, rfl, rfl, rfl, afterBlockCall_blockCallEnd st _⟩

/-- With a key, one call per block returns every block of the cipher (45 R262, R267). -/
theorem driveBlocks_ok (op : BlockOp) (b : Block) (bs : List Block) {st : State} (hb : st.busy = false)
    (hr : st.resetIn = false) (hk : st.keyValid = true) :
    ∃ t, driveBlocks op (b :: bs) st = .next (t, .ok ((b :: bs).map (blockFunction op st.w))) ∧
      BlockCallDone st t := by
  induction bs generalizing b st with
  | nil =>
    obtain ⟨t, ht, hdone⟩ := driveBlock_ok op b hb hr hk
    exact ⟨t, by rw [driveBlocks, ht]; rfl, hdone⟩
  | cons b' bs ih =>
    obtain ⟨t, ht, hdone⟩ := driveBlock_ok op b hb hr hk
    obtain ⟨t', ht', hdone'⟩ := ih b' hdone.busy (hdone.resetIn.trans hr) hdone.keyValid
    refine ⟨t', ?_, hdone.trans hdone'⟩
    rw [driveBlocks, ht, andThen_next]
    simp only [ht', andThen_next, hdone.w]
    rfl

/-- Without a key the first call ends all of it (45 R265). -/
theorem driveBlocks_noKey (op : BlockOp) (b : Block) (bs : List Block) {st : State} (hb : st.busy = false)
    (hr : st.resetIn = false) (hk : st.keyValid = false) :
    ∃ t, driveBlocks op (b :: bs) st = .next (t, .error (.command 3)) ∧ BlockCallRejected b st t := by
  obtain ⟨t, ht, hrej⟩ := driveBlock_rejected op (len := 16) b hb hr (.inl hk)
  rw [hk] at ht
  exact ⟨t, by rw [driveBlocks, ht]; rfl, hrej⟩

/-- STATUS after a block call without a key is the code of NO_KEY alone (60 R280). -/
theorem BlockCallRejected.status_of_noKey {b : Block} {st t : State} (h : BlockCallRejected b st t)
    (hk : st.keyValid = false) : t.statusWord = 0x00000300 := by
  rw [State.statusWord, h.busy, h.done, h.drop, h.err, h.keyValid, hk]
  decide

/-- A message has a first block. -/
theorem splitBlocks_ne_nil {l : List Byte} (h : 16 ≤ l.length) : ∃ b bs, splitBlocks l = b :: bs := by
  refine List.exists_cons_of_length_pos ?_
  rw [splitBlocks_length]
  omega

end Sys2Proof.Machine
end

section
/-! The statements about the `wait` loop and the driver settled. -/

open Sys2Proof Sys2Proof.Machine

/-- Settles O53: the running command ends within 40 steps, and from the idle engine the host passes the loop in three. -/
theorem waitLoopEnds : Obligations.WaitLoopEnds := by
  unfold Obligations.WaitLoopEnds
  intro st p hi hp hr hs hh hpc h0 h1 h2
  subst hpc
  obtain ⟨n, u, hn, hrun, hu⟩ : ∃ n u, n ≤ 40 ∧ EngineRun n st u ∧ u.busy = false := by
    by_cases hq : st.seq = .idle
    · exact ⟨0, st, by omega, rfl, (busy_false_iff st).2 hq⟩
    · obtain ⟨u, hrun, hu, -⟩ := engineRun_completes hi.progress hr hq
      exact ⟨_, u, remaining_le hi.progress, hrun, by rw [hu, completed_frame hq]; rfl⟩
  obtain ⟨hhost, hpar, hsch, hres⟩ := engineRun_frame hrun
  have hwait := hostRun_wait (ag := u.host) hu (hres.trans hr) (hhost ▸ hh) (hhost ▸ h0) (hhost ▸ h1) (hhost ▸ h2)
  refine ⟨n + 3, _, by omega, (runSteps_of_engineRun 3 hrun hp hs).trans
    (runSteps_of_hostRun 0 hwait (hpar ▸ hp) (hsch.trans hs)), ?_, ?_, ?_, hu⟩
  · simp [afterWait, hhost]
  · simp [afterWait]
  · simp [afterWait]
    rfl

/-- Settles O57: the padded message has a first block, and `driveBlocks_ok` or `driveBlocks_noKey` says what the calls
return. -/
theorem driverEncryptsMessages : Obligations.DriverEncryptsMessages := by
  unfold Obligations.DriverEncryptsMessages
  intro st m _ hr hb
  obtain ⟨b, bs, hsplit⟩ := splitBlocks_ne_nil (l := pad m) (by rw [pad_length]; omega)
  refine ⟨fun hk => ?_, fun hk => ?_⟩
  · obtain ⟨t, ht, hdone⟩ := driveBlocks_ok .encrypt b bs hb hr hk
    refine ⟨t, ?_, hdone.busy, hdone.keyValid, hdone.w, hdone.key, hdone.status, hdone.host⟩
    rw [driveEncrypt, messageEncrypt, hsplit, ht, andThen_next, blockFunction_encrypt, Except.map]
  · obtain ⟨t, ht, hrej⟩ := driveBlocks_noKey .encrypt b bs hb hr hk
    refine ⟨t, ?_, hrej.busy, hrej.dout, hrej.w, hrej.key, hrej.status_of_noKey hk, hrej.host⟩
    rw [driveEncrypt, hsplit, ht]
    rfl

/-- Settles O58: the length is checked first, and then `driveBlocks_ok` or `driveBlocks_noKey` says what the calls
return. -/
theorem driverDecryptsMessages : Obligations.DriverDecryptsMessages := by
  unfold Obligations.DriverDecryptsMessages
  intro st c _ hr hb
  refine ⟨fun hlen => if_pos hlen, fun h0 h16 => ?_⟩
  obtain ⟨b, bs, hsplit⟩ := splitBlocks_ne_nil (l := c) (by omega)
  have hgood : ¬ (c.length = 0 ∨ c.length % 16 ≠ 0) := by omega
  refine ⟨fun hk => ?_, fun hk => ?_⟩
  · obtain ⟨t, ht, hdone⟩ := driveBlocks_ok .decrypt b bs hb hr hk
    refine ⟨t, ?_, hdone.busy, hdone.keyValid, hdone.w, hdone.key, hdone.status, hdone.host⟩
    rw [driveDecrypt, if_neg hgood, messageDecrypt, if_neg hgood, hsplit, ht, andThen_next,
      blockFunction_decrypt, Except.bind]
  · obtain ⟨t, ht, hrej⟩ := driveBlocks_noKey .decrypt b bs hb hr hk
    refine ⟨t, ?_, hrej.busy, hrej.dout, hrej.w, hrej.key, hrej.status_of_noKey hk, hrej.host⟩
    rw [driveDecrypt, if_neg hgood, hsplit, ht]
    rfl

/-- Settles O59: the construction and the block call are their lines around the outcome of their issue, accepted and run
to its end, or rejected. -/
theorem driverConstructs : Obligations.DriverConstructs := by
  unfold Obligations.DriverConstructs
  intro st k len _ hr hb
  refine ⟨fun hlen => ?_, fun hlen => ?_, fun hlen op b => ?_⟩
  · subst hlen
    obtain ⟨u, hrun, hu, -⟩ := engineRun_completes (State.Progress.startKeyExp (constructIssued 16 k st)) hr (by simp)
    have hub : u.busy = false := by rw [hu]; rfl
    have hstatus : u.statusWord = 0x00000006 := by
      rw [hu]
      exact statusWord_of_completed rfl rfl rfl rfl rfl
    have ht0 : (constructEnd st u).host.t[0] = 0x00000006 := (constructEnd_status st u).trans hstatus
    refine ⟨constructEnd st u, ?_, (congrArg State.key hu :), (congrArg State.w hu :), (congrArg State.keyValid hu :),
      hub, hstatus, ht0⟩
    rw [driveConstruct_of_issue hb hr (exec_keyExpand_accepted hb) hrun (remaining_le (State.Progress.startKeyExp _)) hub,
      checkedResult_ok _ ht0]
  · have hex : exec (.keyExpand len) (constructIssued len k st) =
        .next (reportCmdError .invalidKeyLength (constructIssued len k st)) := by
      rw [exec_keyExpand, whileIdle_idle _ (by exact hb), issueKeyExpand_eq, if_pos hlen]
    have ht0 := constructEnd_status st (reportCmdError .invalidKeyLength (constructIssued len k st))
    have hcheck := checkedResult_rejected (e := .invalidKeyLength) (fun _ => ()) ht0 hb rfl rfl rfl
    exact ⟨constructEnd st (reportCmdError .invalidKeyLength (constructIssued len k st)),
      (driveConstruct_of_issue (n := 0) hb hr hex rfl (Nat.zero_le 40) hb).trans (by rw [hcheck]; rfl),
      rfl, rfl, rfl, hb, rfl, ht0⟩
  · obtain ⟨t, ht, hrej⟩ := driveBlock_rejected op b hb hr (.inr hlen)
    refine ⟨t, ht.trans ?_, hrej.din, hrej.dout, hrej.w, hrej.key, hrej.keyValid, hrej.busy, hrej.err.trans ?_,
      hrej.host⟩ <;> (cases st.keyValid <;> rfl)

end
